-- ==== Sys2Proof/Word.lean ====
section
/-! DEFINITION. The widths the spec gives its bit patterns. Nothing here computes: every operation that a
test could show wrong is in Decode.lean or under Machine/. -/

namespace Sys2Proof

/-- The op word: "one 64-bit op word" (30_encoding.md R90). -/
abbrev Word := BitVec 64

/-- One byte of a transported op word (R72) or one ASCII character of a wire text (R104). -/
abbrev Byte := BitVec 8

/-- EdgeTimestamp, "a 16-bit free-running counter value" (10_state.md R33). -/
abbrev Timestamp := BitVec 16

/-- FX, a 32-bit two's-complement count of thousandths (30_encoding.md R101). -/
abbrev Fx := BitVec 32

/-- A text: a finite sequence of ASCII bytes, first character first (00_scope.md R14, 30_encoding.md R104). -/
abbrev Text := List Byte

end Sys2Proof
end

