-- ==== Sys2Proof/Config.lean ====
section
/-! DEFINITION. The configuration record of 00_scope.md R6, its constraints, the OPEN parameters as opaque
constants, the reference block, and the test configuration TC of 95_test_vectors.md. -/

namespace Sys2Proof

/-- Which value the policy calls "duty" (R6, decision D17). -/
inductive DutySource where
  | average
  | latest
  deriving DecidableEq, Repr

/-- The parameters of a build (R6). They are "fixed at build time" and "Nothing in the block writes them" (R8).
FX-valued parameters are raw counts of thousandths. -/
structure Config where
  /-- `N`, the DebounceWindow capacity in slots. -/
  n : Nat
  /-- `Q_CAP`, the CommandQueue capacity in slots. -/
  qCap : Nat
  /-- `MAX_TICKS_BETWEEN_UPDATE`. -/
  maxTicksBetweenUpdate : Nat
  /-- `MIN_TICKS_BETWEEN_SEND`. -/
  minTicksBetweenSend : Nat
  /-- `CURRENT_MAX`, FX raw. -/
  currentMax : Nat
  /-- `CURRENT_FLOOR`, FX raw. -/
  currentFloor : Nat
  /-- `VOLTAGE_SET`, FX raw. -/
  voltageSet : Nat
  /-- `DUTY_SOURCE`. -/
  dutySource : DutySource
  /-- `TICK_PERIOD` in milliseconds; "no rule reads it". -/
  tickPeriodMs : Nat
  deriving DecidableEq, Repr

/-- The constraint column of R6. A record outside it "is not a block" (93_implementation_defined.md U20). -/
abbrev Config.Valid (c : Config) : Prop :=
  (1 ≤ c.n ∧ c.n ≤ 65535) ∧ (1 ≤ c.qCap ∧ c.qCap ≤ 255) ∧
  (1 ≤ c.maxTicksBetweenUpdate ∧ c.maxTicksBetweenUpdate ≤ 65535) ∧
  c.minTicksBetweenSend ≤ 65535 ∧
  c.currentMax < 2147483648 ∧ c.currentFloor < 2147483648 ∧ c.voltageSet < 2147483648

/-- OPEN in R6: `N - 1`. No value exists in any source, so none is chosen (log entry 1). -/
opaque Config.openCapacityLessOne : Fin 65535

/-- OPEN in R6: `MAX_TICKS_BETWEEN_UPDATE - 1` (log entry 1). -/
opaque Config.openMaxTicksLessOne : Fin 65535

/-- OPEN in R6: `MIN_TICKS_BETWEEN_SEND` (log entry 1). -/
opaque Config.openMinTicks : Fin 65536

/-- OPEN in R6: `CURRENT_FLOOR`, FX raw (log entry 1). -/
opaque Config.openCurrentFloor : Fin 2147483648

/-- OPEN in R6: `VOLTAGE_SET`, FX raw (log entry 1). -/
opaque Config.openVoltageSet : Fin 2147483648

/-- The reference block of R6: the document's defaults where it states one (DESIGN CHOICE, log entry 2), an
opaque constant where the parameter is OPEN (log entry 1). -/
def Config.reference : Config where
  n := Config.openCapacityLessOne.val + 1
  qCap := 5
  maxTicksBetweenUpdate := Config.openMaxTicksLessOne.val + 1
  minTicksBetweenSend := Config.openMinTicks.val
  currentMax := 4000
  currentFloor := Config.openCurrentFloor.val
  voltageSet := Config.openVoltageSet.val
  dutySource := .average
  tickPeriodMs := 10

/-- Test configuration TC of 95_test_vectors.md ("TC exists for testing"): not the block's values. -/
def Config.tc : Config where
  n := 3
  qCap := 5
  maxTicksBetweenUpdate := 6
  minTicksBetweenSend := 2
  currentMax := 4000
  currentFloor := 100
  voltageSet := 12000
  dutySource := .average
  tickPeriodMs := 10

end Sys2Proof
end

