-- ==== Sys2Proof/Syntax.lean ====
section
/-! DEFINITION. The instructions as syntax: one constructor per row of spec/opcode_table.json, with the operand
fields at their encoded widths (30_encoding.md R92); and the two ports. -/

namespace Sys2Proof

/-- The two request ports: the edge-event port (10_state.md R53) and the poll request port (R55). -/
inductive Port where
  | edge
  | poll
  deriving DecidableEq, Repr

/-- One operation of the block with its operand fields as encoded (R91, R92). A value of this type may hold an
operand that R94 calls BAD_OPERAND; `Instr.wellFormed` says which do not. -/
inductive Instr where
  /-- CAPTURE 0x10: one edge event with its timestamp (R120). -/
  | capture (ts : Timestamp)
  /-- PUSH 0x20: one sample, `VAL[6:0]` (R140). -/
  | push (sample : BitVec 7)
  /-- AVG 0x21 (R141). -/
  | avg
  /-- ALLSAME 0x22 (R142). -/
  | allsame
  /-- SUM 0x23 (R143). -/
  | sum
  /-- COUNT 0x24 (R144). -/
  | count
  /-- TICK 0x30 (R160). -/
  | tick
  /-- SNAP 0x31 (R171). -/
  | snap
  /-- ENQ 0x40: a command, tag and FX payload (R190). -/
  | enq (tag : BitVec 2) (val : Fx)
  /-- DEQ 0x41 (R191). -/
  | deq
  /-- SPACE 0x42 (R192). -/
  | space
  /-- LEN 0x43 (R193). -/
  | len
  /-- ISFULL 0x44 (R194). -/
  | isfull
  /-- ISEMPTY 0x45 (R195). -/
  | isempty
  /-- FMT 0x50: an FX value (R210). -/
  | fmt (val : Fx)
  /-- SER 0x51: a command, tag and FX payload (R213). -/
  | ser (tag : BitVec 2) (val : Fx)
  deriving DecidableEq, Repr

end Sys2Proof
end

