-- ==== Sys2Proof/WellFormed.lean ====
section
/-! DEFINITION. The operand checks of 30_encoding.md R94, third bullet (cause BAD_OPERAND). -/

namespace Sys2Proof

/-- A command's fields: "VAL must be 0 when TAG is 0 (OutputOn) or 1 (OutputOff)" (R92). -/
def commandFieldsOk (tag : BitVec 2) (val : Fx) : Bool :=
  2 ≤ tag.toNat || val == 0#32

/-- The operands are values the operation takes: PUSH "must be <= 100", ENQ and SER as `commandFieldsOk`;
the other operations take every value of their fields (R92, R94). -/
def Instr.wellFormed (i : Instr) : Bool :=
  match i with
  | .capture _ => true
  | .push sample => sample.toNat ≤ 100
  | .avg => true
  | .allsame => true
  | .sum => true
  | .count => true
  | .tick => true
  | .snap => true
  | .enq tag val => commandFieldsOk tag val
  | .deq => true
  | .space => true
  | .len => true
  | .isfull => true
  | .isempty => true
  | .fmt _ => true
  | .ser tag val => commandFieldsOk tag val

end Sys2Proof
end

