-- ==== Sys2Proof/Decode.lean ====
section
/-! DEFINITION. The op word's fields (30_encoding.md R90), the opcode map (R91), the decoder with its causes in
the order of R94, the port check of R231, the encoder, and the byte order of a transported op word (R72). -/

namespace Sys2Proof

/-- Why an op word is illegal (30_encoding.md R94, 60_exceptions.md R230). -/
inductive Cause where
  /-- "`OPC` is unassigned". -/
  | illegalOpcode
  /-- "a bit that must be 0 is 1". -/
  | reservedNonzero
  /-- "PUSH sample > 100; ENQ or SER with tag 0 or 1 and `VAL != 0`". -/
  | badOperand
  /-- "CAPTURE on the poll port, or another opcode on the edge port". -/
  | wrongPort
  deriving DecidableEq, Repr

/-- The cause codes of 60_exceptions.md R230. -/
def Cause.code (c : Cause) : Nat :=
  match c with
  | .illegalOpcode => 1
  | .reservedNonzero => 2
  | .badOperand => 3
  | .wrongPort => 4

/-- The assigned opcodes (30_encoding.md R91). -/
inductive Opcode where
  | capture
  | push
  | avg
  | allsame
  | sum
  | count
  | tick
  | snap
  | enq
  | deq
  | space
  | len
  | isfull
  | isempty
  | fmt
  | ser
  deriving DecidableEq, Repr

/-! ## The fields of the op word (R90) -/

/-- `OPC`, bits [63:56]. -/
def opcField (w : Word) : BitVec 8 := w.extractLsb' 56 8

/-- `RSV`, bits [55:34]. -/
def rsvField (w : Word) : BitVec 22 := w.extractLsb' 34 22

/-- `TAG`, bits [33:32]. -/
def tagField (w : Word) : BitVec 2 := w.extractLsb' 32 2

/-- `VAL`, bits [31:0]. -/
def valField (w : Word) : BitVec 32 := w.extractLsb' 0 32

/-- The op word with these fields and `RSV` zero (R90). -/
def opWord (opc : BitVec 8) (tag : BitVec 2) (val : BitVec 32) : Word :=
  opc ++ 0#22 ++ tag ++ val

/-! ## The opcode map (R91) -/

/-- The column `OPC` of R91. -/
def Opcode.code (o : Opcode) : BitVec 8 :=
  match o with
  | .capture => 0x10#8
  | .push => 0x20#8
  | .avg => 0x21#8
  | .allsame => 0x22#8
  | .sum => 0x23#8
  | .count => 0x24#8
  | .tick => 0x30#8
  | .snap => 0x31#8
  | .enq => 0x40#8
  | .deq => 0x41#8
  | .space => 0x42#8
  | .len => 0x43#8
  | .isfull => 0x44#8
  | .isempty => 0x45#8
  | .fmt => 0x50#8
  | .ser => 0x51#8

/-- R91 read the other way; `none` for "every other value of `OPC`", which R95 keeps unassigned. -/
def opcodeOf (opc : BitVec 8) : Option Opcode :=
  match opc.toNat with
  | 0x10 => some .capture
  | 0x20 => some .push
  | 0x21 => some .avg
  | 0x22 => some .allsame
  | 0x23 => some .sum
  | 0x24 => some .count
  | 0x30 => some .tick
  | 0x31 => some .snap
  | 0x40 => some .enq
  | 0x41 => some .deq
  | 0x42 => some .space
  | 0x43 => some .len
  | 0x44 => some .isfull
  | 0x45 => some .isempty
  | 0x50 => some .fmt
  | 0x51 => some .ser
  | _ => none

/-- The opcode of an operation. -/
def Instr.opcode (i : Instr) : Opcode :=
  match i with
  | .capture _ => .capture
  | .push _ => .push
  | .avg => .avg
  | .allsame => .allsame
  | .sum => .sum
  | .count => .count
  | .tick => .tick
  | .snap => .snap
  | .enq _ _ => .enq
  | .deq => .deq
  | .space => .space
  | .len => .len
  | .isfull => .isfull
  | .isempty => .isempty
  | .fmt _ => .fmt
  | .ser _ _ => .ser

/-- The column `port` of R91: CAPTURE on the edge-event port, every other opcode on the poll port (R231). -/
def Opcode.port (o : Opcode) : Port :=
  match o with
  | .capture => .edge
  | .push => .poll
  | .avg => .poll
  | .allsame => .poll
  | .sum => .poll
  | .count => .poll
  | .tick => .poll
  | .snap => .poll
  | .enq => .poll
  | .deq => .poll
  | .space => .poll
  | .len => .poll
  | .isfull => .poll
  | .isempty => .poll
  | .fmt => .poll
  | .ser => .poll

/-- The port an operation is issued on (R91, R231). -/
def Instr.port (i : Instr) : Port := i.opcode.port

/-! ## Decoding (R92 to R94) -/

/-- Every bit that R92 marks 0 for this opcode is 0 (the test of cause RESERVED_NONZERO). -/
def reservedBitsZero (o : Opcode) (w : Word) : Bool :=
  rsvField w == 0#22 &&
  match o with
  | .capture => tagField w == 0#2 && (valField w).extractLsb' 16 16 == 0#16
  | .push => tagField w == 0#2 && (valField w).extractLsb' 7 25 == 0#25
  | .avg => tagField w == 0#2 && valField w == 0#32
  | .allsame => tagField w == 0#2 && valField w == 0#32
  | .sum => tagField w == 0#2 && valField w == 0#32
  | .count => tagField w == 0#2 && valField w == 0#32
  | .tick => tagField w == 0#2 && valField w == 0#32
  | .snap => tagField w == 0#2 && valField w == 0#32
  | .enq => true
  | .deq => tagField w == 0#2 && valField w == 0#32
  | .space => tagField w == 0#2 && valField w == 0#32
  | .len => tagField w == 0#2 && valField w == 0#32
  | .isfull => tagField w == 0#2 && valField w == 0#32
  | .isempty => tagField w == 0#2 && valField w == 0#32
  | .fmt => tagField w == 0#2
  | .ser => true

/-- The operation with the operand fields read from the word (R92, R93). -/
def operandsOf (o : Opcode) (w : Word) : Instr :=
  match o with
  | .capture => .capture ((valField w).extractLsb' 0 16)
  | .push => .push ((valField w).extractLsb' 0 7)
  | .avg => .avg
  | .allsame => .allsame
  | .sum => .sum
  | .count => .count
  | .tick => .tick
  | .snap => .snap
  | .enq => .enq (tagField w) (valField w)
  | .deq => .deq
  | .space => .space
  | .len => .len
  | .isfull => .isfull
  | .isempty => .isempty
  | .fmt => .fmt (valField w)
  | .ser => .ser (tagField w) (valField w)

/-- Decoding without the port: the first three causes of R94, "in the order listed". -/
def decode (w : Word) : Except Cause Instr :=
  match opcodeOf (opcField w) with
  | none => .error .illegalOpcode
  | some o =>
    if reservedBitsZero o w then
      if (operandsOf o w).wellFormed then .ok (operandsOf o w) else .error .badOperand
    else .error .reservedNonzero

/-- Decoding on a port: the fourth cause of R94, WRONG_PORT, comes last (R231). -/
def decodeOn (p : Port) (w : Word) : Except Cause Instr :=
  match decode w with
  | .error c => .error c
  | .ok i => if i.port = p then .ok i else .error .wrongPort

/-! ## Encoding -/

/-- The op word of an operation, from the same tables (R90 to R92). -/
def encode (i : Instr) : Word :=
  match i with
  | .capture ts => opWord 0x10#8 0#2 (0#16 ++ ts)
  | .push sample => opWord 0x20#8 0#2 (0#25 ++ sample)
  | .avg => opWord 0x21#8 0#2 0#32
  | .allsame => opWord 0x22#8 0#2 0#32
  | .sum => opWord 0x23#8 0#2 0#32
  | .count => opWord 0x24#8 0#2 0#32
  | .tick => opWord 0x30#8 0#2 0#32
  | .snap => opWord 0x31#8 0#2 0#32
  | .enq tag val => opWord 0x40#8 tag val
  | .deq => opWord 0x41#8 0#2 0#32
  | .space => opWord 0x42#8 0#2 0#32
  | .len => opWord 0x43#8 0#2 0#32
  | .isfull => opWord 0x44#8 0#2 0#32
  | .isempty => opWord 0x45#8 0#2 0#32
  | .fmt val => opWord 0x50#8 0#2 val
  | .ser tag val => opWord 0x51#8 tag val

/-! ## Transport byte order (R72) -/

/-- The bytes of an op word on a transport: "byte 0 holds bits [7:0] and byte 7 holds bits [63:56]". -/
def bytesOfWord (w : Word) : List Byte :=
  [w.extractLsb' 0 8, w.extractLsb' 8 8, w.extractLsb' 16 8, w.extractLsb' 24 8,
   w.extractLsb' 32 8, w.extractLsb' 40 8, w.extractLsb' 48 8, w.extractLsb' 56 8]

/-- The op word that eight transported bytes carry; any other number of bytes is no op word ("Every op word is
exactly 64 bits", R96; log entry 18). -/
def wordOfBytes (bytes : List Byte) : Option Word :=
  match bytes with
  | [b0, b1, b2, b3, b4, b5, b6, b7] => some (b7 ++ b6 ++ b5 ++ b4 ++ b3 ++ b2 ++ b1 ++ b0)
  | _ => none

/-! ## What the host asks with a row of the opcode table -/

/-- The op word whose low `nbits` bits are those of `w` and whose other bits are 0. -/
def tableWord (nbits w : Nat) : Word := BitVec.ofNat 64 (w % 2 ^ nbits)

/-- The operation the decoder reads from the transported bytes of that op word. -/
def decodeTableWord (nbits w : Nat) : Option Instr :=
  match wordOfBytes (bytesOfWord (tableWord nbits w)) with
  | none => none
  | some word =>
    match decode word with
    | .ok i => some i
    | .error _ => none

/-- The port that takes this word's opcode (R91); the poll port for an unassigned opcode (log entry 16). -/
def homePort (w : Word) : Port :=
  match opcodeOf (opcField w) with
  | some o => o.port
  | none => .poll

end Sys2Proof
end

