-- ==== Sys2Proof/Machine/State.lean ====
section
/-! DEFINITION. The state of the block (10_state.md), the inputs and outputs at its ports, the reasons a step can
stop, and the state power-on reset leaves (70_reset_and_hazards.md R260). -/

namespace Sys2Proof.Machine

/-- DutySample: an "integer percent in [0,100]" (R36). The 7-bit values 101 to 127 are "never held", so the type
leaves them out, as U12 asks. -/
abbrev DutySample := Fin 101

/-- The level of the edge-select output and the request that sets it (R35, R54). -/
inductive EdgeSel where
  /-- Bit value 0. -/
  | rising
  /-- Bit value 1. -/
  | falling
  deriving DecidableEq, Repr

/-- The capture state, "a tagged variant with exactly three forms" (R32); tag 3 is never held (R34) and a payload
that a form lacks is not observed (U11). -/
inductive CapState where
  | awaitingRisingEdge
  | awaitingFallingEdge (risingTs : Timestamp)
  | awaitingPeriodEnd (risingTs : Timestamp) (width : BitVec 16)
  deriving DecidableEq, Repr

/-- PSUCommand (R47, R98). The payload of `OutputOn` and `OutputOff` is 0 and so is not a field. -/
inductive PsuCommand where
  | outputOn
  | outputOff
  | setCurrent (amps : Fx)
  | setVoltage (volts : Fx)
  deriving DecidableEq, Repr

/-- The DebounceWindow (R38 to R41). -/
structure Window where
  /-- `S.win.slot[0 .. N-1]` (R38). -/
  slots : List DutySample
  /-- `S.win.head`, "the index of the slot the next push writes" (R39). -/
  head : Nat
  /-- `S.win.count`, the fill count (R40). -/
  count : Nat
  /-- `S.win.sum`, the running sum; it "never overflows" (R41). -/
  sum : Nat
  deriving DecidableEq, Repr

/-- The CommandQueue (R48 to R50). -/
structure CommandQueue where
  /-- `S.q.ring[0 .. Q_CAP-1]` (R48). -/
  ring : List PsuCommand
  /-- `S.q.head`, "the index of the oldest entry" (R49). -/
  head : Nat
  /-- `S.q.count`, "the number of entries" (R50). -/
  count : Nat
  deriving DecidableEq, Repr

/-- A response, carried as a value (R57). -/
inductive Response where
  | unit
  | bool (b : Bool)
  | nat (n : Nat)
  | optDuty (d : Option DutySample)
  | optNat (n : Option Nat)
  | optCmd (c : Option PsuCommand)
  | text (t : Text)
  | fault (cause : Cause) (word : Word)
  deriving DecidableEq, Repr

/-- A response and the port it returns on (R13, R53, R55). -/
structure Reply where
  port : Port
  value : Response
  deriving DecidableEq, Repr

/-- One input from the environment (log entry 3). -/
inductive Input where
  /-- An op word put on a port (R53, R55). -/
  | op (port : Port) (word : Word)
  /-- Power-on, with the launch condition `init_ok` (R233, R260, R262; log entry 7). -/
  | powerOn (initOk : Bool)
  deriving DecidableEq, Repr

/-- The state `S` of 10_state.md, with the configuration of the build, the inputs still to come and the outputs
already given. The last are the model's own fields (log entries 1, 3, 5 and 7). -/
structure State where
  /-- The build's `Config`; no operation writes it (R8). -/
  cfg : Config
  /-- The launch condition `init_ok` (R233). -/
  initOk : Bool
  /-- The inputs to come, in the order of the schedule (R74, R78). -/
  inbox : List Input
  /-- `S.cap` (R32). -/
  cap : CapState
  /-- `S.edge_sel` (R35). -/
  edgeSel : EdgeSel
  /-- `S.sample`, the shared sample cell (R37). -/
  sample : DutySample
  /-- `S.win` (R38 to R41). -/
  win : Window
  /-- `S.last_applied_duty` (R43). -/
  lastAppliedDuty : DutySample
  /-- `S.output_enabled` (R44). -/
  outputEnabled : Bool
  /-- `S.ticks_since_last_update`; it saturates and never wraps (R45). -/
  ticksSinceLastUpdate : Nat
  /-- `S.ticks_since_last_send`; it saturates and never wraps (R46). -/
  ticksSinceLastSend : Nat
  /-- `S.q` (R48 to R50). -/
  q : CommandQueue
  /-- `S.fault`, the sticky fault flag (R52). -/
  fault : Bool
  /-- The edge-select requests made, oldest first (R54). -/
  selectOut : List EdgeSel
  /-- The texts emitted, oldest first (R56). -/
  textOut : List Text
  /-- The responses given, oldest first (R57). -/
  respOut : List Reply
  deriving DecidableEq, Repr

/-- Why the machine stops. -/
inductive Fault where
  /-- Raised by `step` when the launch condition `init_ok` is false: "neither agent issues any operation, no text
  is ever emitted, and the run is stuck from the start. Such a run is a halt" (R233, U13). Safe: the spec gives
  such a run no further step. -/
  | initFailed
  deriving DecidableEq, Repr

/-- Why the model gives no meaning. -/
inductive Refusal where
  /-- Raised by an arm of `exec` whose operation has no meaning yet; no arm does. Safe: the model stops. -/
  | notModelled (mnemonic : String)
  deriving DecidableEq, Repr

/-- The DebounceWindow after reset: every slot 0, head, count and sum 0 (R38 to R41, R260). -/
def Window.empty (n : Nat) : Window where
  slots := List.replicate n 0
  head := 0
  count := 0
  sum := 0

/-- The CommandQueue after reset: every slot tag 0, payload 0, that is `OutputOn`; head and count 0
(R48 to R50, R260). -/
def CommandQueue.empty (cap : Nat) : CommandQueue where
  ring := List.replicate cap .outputOn
  head := 0
  count := 0

/-- The state after power-on reset of a block built with `c` (R260), with nothing put on a port yet and nothing
given out (log entry 17). -/
def State.resetWith (c : Config) : State where
  cfg := c
  initOk := true
  inbox := []
  cap := .awaitingRisingEdge
  edgeSel := .rising
  sample := 0
  win := Window.empty c.n
  lastAppliedDuty := 0
  outputEnabled := false
  ticksSinceLastUpdate := 0
  ticksSinceLastSend := 0
  q := CommandQueue.empty c.qCap
  fault := false
  selectOut := []
  textOut := []
  respOut := []

/-- The reference block right after power-on reset (R260, R261). -/
def State.reset : State := State.resetWith Config.reference

end Sys2Proof.Machine
end

