-- ==== Sys2Proof/Machine/Operands.lean ====
section
/-! DEFINITION. The arithmetic of 00_scope.md R12, the operand assembly of 30_encoding.md R93, and the fields of
a command as encoded (R98). -/

namespace Sys2Proof.Machine

/-- `satinc(c, top) = min(c + 1, top)` (R12). -/
def satinc (c top : Nat) : Nat := min (c + 1) top

/-- `clamp(v, lo, hi) = min(max(v, lo), hi)` (R12). -/
def clamp (v lo hi : Nat) : Nat := min (max v lo) hi

/-- `a -w16 b`, "(a - b) mod 2^16" (R12, R127). -/
def wsub16 (a b : BitVec 16) : BitVec 16 := a - b

/-- A percent clamped to [0, 100], as a DutySample (R36, R123). -/
def toDuty (v : Nat) : DutySample :=
  ⟨clamp v 0 100, Nat.lt_succ_of_le (Nat.min_le_right _ _)⟩

/-- The sample of PUSH, "a value in [0, 100]" (R93); `none` for the operands R94 calls BAD_OPERAND. -/
def sampleOperand (sample : BitVec 7) : Option DutySample :=
  if h : sample.toNat < 101 then some ⟨sample.toNat, h⟩ else none

/-- The FX payload, `sext_32(VAL)` (R93, R101). -/
def fxOperand (val : Fx) : Int := val.toInt

/-- The FX value of a raw count of thousandths that FX can hold (R101). -/
def fxOfNat (raw : Nat) : Fx := BitVec.ofNat 32 raw

/-- The command `{tag = TAG, val = sext_32(VAL)}` (R93, R98); `none` for the operands R94 calls BAD_OPERAND. -/
def commandOperand (tag : BitVec 2) (val : Fx) : Option PsuCommand :=
  match tag.toNat with
  | 0 => if val = 0#32 then some .outputOn else none
  | 1 => if val = 0#32 then some .outputOff else none
  | 2 => some (.setCurrent val)
  | _ => some (.setVoltage val)

/-- The tag of a command (R98). -/
def PsuCommand.tag (c : PsuCommand) : BitVec 2 :=
  match c with
  | .outputOn => 0#2
  | .outputOff => 1#2
  | .setCurrent _ => 2#2
  | .setVoltage _ => 3#2

/-- The payload of a command; "The payload of `OutputOn` and `OutputOff` is 0" (R47). -/
def PsuCommand.val (c : PsuCommand) : Fx :=
  match c with
  | .outputOn => 0#32
  | .outputOff => 0#32
  | .setCurrent amps => amps
  | .setVoltage volts => volts

/-- The bit value of the edge-select level (R35). -/
def EdgeSel.bit (e : EdgeSel) : BitVec 1 :=
  match e with
  | .rising => 0#1
  | .falling => 1#1

/-- The tag of the capture state, `S.cap.tag` (R32). -/
def CapState.tag (c : CapState) : BitVec 2 :=
  match c with
  | .awaitingRisingEdge => 0#2
  | .awaitingFallingEdge _ => 1#2
  | .awaitingPeriodEnd _ _ => 2#2

end Sys2Proof.Machine
end

