-- ==== Sys2Proof/Machine/Flags.lean ====
section
/-! DEFINITION. The conditions and flags: the two the block stores are `outputEnabled` and `fault`; the others
"are computed when used and are never stored" (10_state.md R58). -/

namespace Sys2Proof.Machine

/-- "allSame": the window is full and every slot equals slot 0 (41_debounce.md R142). -/
def Window.allSame (n : Nat) (w : Window) : Bool :=
  w.count == n && (List.range n).all fun i => w.slots.getD i 0 == w.slots.getD 0 0

/-- The queue holds `Q_CAP` entries (43_queue.md R194). -/
def CommandQueue.isFull (cap : Nat) (q : CommandQueue) : Bool := q.count == cap

/-- The queue holds no entry (43_queue.md R195). -/
def CommandQueue.isEmpty (q : CommandQueue) : Bool := q.count == 0

/-- "overdue": the update counter stands at its top (42_policy.md R163). -/
def overdue (s : State) : Bool := s.cfg.maxTicksBetweenUpdate ≤ s.ticksSinceLastUpdate

/-- The stability gate, ALLSAME's condition on the state (42_policy.md R160, stage 3). -/
def stable (s : State) : Bool := s.win.allSame s.cfg.n

/-- "(stable or overdue) and (duty != last_applied_duty or overdue)" (42_policy.md R165). -/
def actCondition (duty : DutySample) (s : State) : Bool :=
  (stable s || overdue s) && (duty != s.lastAppliedDuty || overdue s)

/-- The space gate, "at least 2 free slots" (42_policy.md R165; conflict C7 keeps the 2). -/
def spaceGate (s : State) : Bool := 2 ≤ s.cfg.qCap - s.q.count

/-- The send gate: the send counter has reached its top and the queue holds a command (42_policy.md R169). -/
def sendGate (s : State) : Bool :=
  s.cfg.minTicksBetweenSend ≤ s.ticksSinceLastSend && 0 < s.q.count

/-- What `output_enabled` becomes when a batch for this duty is built: 0 in the lower band, 1 in the other two
(42_policy.md R166). -/
def outputEnabledFor (duty : DutySample) : Bool := 10 ≤ duty.val

end Sys2Proof.Machine
end

