-- ==== Sys2Proof/Machine/Ops.lean ====
section
/-! DEFINITION. The named operations the meanings share: the ports, the snapshot, the window's push, the queue's
ends, taking the fault of 60_exceptions.md R230, power-on, and fetching the next input. -/

namespace Sys2Proof.Machine

/-! ## Ports -/

/-- `respond(v)`: the response goes back on the port (00_scope.md R13). -/
def respond (p : Port) (v : Response) (s : State) : State :=
  { s with respOut := s.respOut ++ [⟨p, v⟩] }

/-- `emit(t)`: the text goes to the text output port as one write (00_scope.md R13, 10_state.md R56). -/
def emit (t : Text) (s : State) : State :=
  { s with textOut := s.textOut ++ [t] }

/-- `edge_sel <- v`: the level changes and one request is made, "even when it repeats the current level"
(00_scope.md R13, 10_state.md R54). -/
def requestEdge (e : EdgeSel) (s : State) : State :=
  { s with edgeSel := e, selectOut := s.selectOut ++ [e] }

/-! ## The shared sample cell -/

/-- The snapshot: one atomic read of the whole cell, which "does not clear it" (20_memory.md R73, R77). -/
def snapshot (s : State) : DutySample := s.sample

/-! ## The DebounceWindow -/

/-- The evicted sample of a push: slot `head` of a full window, else 0 (41_debounce.md R140, `old`). -/
def Window.evicted (n : Nat) (w : Window) : Nat :=
  if w.count = n then (w.slots.getD w.head 0).val else 0

/-- PUSH on a window of capacity `n` (41_debounce.md R140). -/
def Window.push (n : Nat) (d : DutySample) (w : Window) : Window where
  slots := w.slots.set w.head d
  head := (w.head + 1) % n
  count := min (w.count + 1) n
  sum := w.sum - w.evicted n + d.val

/-- The average: `none` if empty, else `sum div count` (41_debounce.md R141). -/
def Window.average (w : Window) : Option Nat :=
  if w.count = 0 then none else some (w.sum / w.count)

/-- PUSH on the state: only the window changes (41_debounce.md R140). -/
def pushSample (d : DutySample) (s : State) : State :=
  { s with win := s.win.push s.cfg.n d }

/-! ## The CommandQueue -/

/-- The entries, oldest first: `ring[(head + k) mod Q_CAP]` for `k < count` (10_state.md R51). -/
def CommandQueue.contents (cap : Nat) (q : CommandQueue) : List PsuCommand :=
  (List.range q.count).map fun k => q.ring.getD ((q.head + k) % cap) .outputOn

/-- The eviction of ENQ: a full queue loses its oldest entry (43_queue.md R190). -/
def CommandQueue.evict (cap : Nat) (q : CommandQueue) : CommandQueue :=
  if q.count = cap then { q with head := (q.head + 1) % cap, count := q.count - 1 } else q

/-- The append of ENQ, into the slot after the newest entry (43_queue.md R190). -/
def CommandQueue.append (cap : Nat) (c : PsuCommand) (q : CommandQueue) : CommandQueue :=
  { q with ring := q.ring.set ((q.head + q.count) % cap) c, count := q.count + 1 }

/-- ENQ on a queue of capacity `cap` (43_queue.md R190). -/
def CommandQueue.enqueue (cap : Nat) (c : PsuCommand) (q : CommandQueue) : CommandQueue :=
  (q.evict cap).append cap c

/-- DEQ on a queue of capacity `cap`: the oldest entry and the queue without it (43_queue.md R191). -/
def CommandQueue.dequeue (cap : Nat) (q : CommandQueue) : Option (PsuCommand × CommandQueue) :=
  if q.count = 0 then none
  else some (q.ring.getD q.head .outputOn, { q with head := (q.head + 1) % cap, count := q.count - 1 })

/-- Free slots, `Q_CAP - count` (43_queue.md R192). -/
def CommandQueue.space (cap : Nat) (q : CommandQueue) : Nat := cap - q.count

/-- ENQ on the state: only the queue changes (43_queue.md R190). -/
def enqueueCommand (c : PsuCommand) (s : State) : State :=
  { s with q := s.q.enqueue s.cfg.qCap c }

/-- A batch, "enqueued one at a time, in batch order, with the semantics of ENQ" (42_policy.md R167). -/
def enqueueBatch (batch : List PsuCommand) (s : State) : State :=
  batch.foldl (fun t c => enqueueCommand c t) s

/-! ## The exception, and power-on -/

/-- Taking the block's one exception (60_exceptions.md R230): the sticky flag is set, the response is
`fault(cause, word)` on the port the word came on (log entry 6), and "it changes no other state". Nothing is
saved and there is no return from it: the block "goes on taking operations" (R238, R239). -/
def takeFault (c : Cause) (p : Port) (w : Word) (s : State) : State :=
  respond p (.fault c w) { s with fault := true }

/-- Power-on (70_reset_and_hazards.md R260, R263): every state element takes its reset value and nothing is
emitted. The build's configuration and the environment's side of the ports (inputs to come, outputs already
given) are not the block's to lose; `init_ok` is as the boot found it (R233, R262; log entry 7). -/
def powerOnReset (initOk : Bool) (s : State) : State :=
  { State.resetWith s.cfg with
    initOk := initOk
    inbox := s.inbox
    selectOut := s.selectOut
    textOut := s.textOut
    respOut := s.respOut }

/-! ## The next input -/

/-- The next input of the schedule and the state without it; `none` when the environment has put nothing on a
port (20_memory.md R74, R78; log entry 3). -/
def fetch (s : State) : Option (Input × State) :=
  match s.inbox with
  | [] => none
  | i :: rest => some (i, { s with inbox := rest })

end Sys2Proof.Machine
end

