-- ==== Sys2Proof/Machine/Capture.lean ====
section
/-! DEFINITION. EdgeCaptureStateMachine: CAPTURE (40_capture.md). -/

namespace Sys2Proof.Machine

/-- The sample of a period: `none` when the period is 0 (R124), else `min((w * 100) div p, 100)` on exact
integers (R123, R125, R126). -/
def periodDuty (width period : BitVec 16) : Option DutySample :=
  if period = 0#16 then none else some (toDuty (width.toNat * 100 / period.toNat))

/-- Writing the emitted sample: `S.sample` is written "only when it responds `some d`" (R128). -/
def writeSample (d : Option DutySample) (s : State) : State :=
  match d with
  | none => s
  | some v => { s with sample := v }

/-- CAPTURE: handle one edge event (R120). -/
def execCapture (ts : Timestamp) (s : State) : Host.Outcome State Fault Refusal :=
  match s.cap with
  | .awaitingRisingEdge =>
    .next (respond .edge (.optDuty none)
      (requestEdge .falling { s with cap := .awaitingFallingEdge ts }))
  | .awaitingFallingEdge r =>
    .next (respond .edge (.optDuty none)
      (requestEdge .rising { s with cap := .awaitingPeriodEnd r (wsub16 ts r) }))
  | .awaitingPeriodEnd r w =>
    .next (respond .edge (.optDuty (periodDuty w (wsub16 ts r)))
      (requestEdge .falling
        (writeSample (periodDuty w (wsub16 ts r)) { s with cap := .awaitingFallingEdge ts })))

end Sys2Proof.Machine
end

