-- ==== Sys2Proof/Machine/Debounce.lean ====
section
/-! DEFINITION. DebounceWindow: PUSH, AVG, ALLSAME, SUM, COUNT (41_debounce.md). -/

namespace Sys2Proof.Machine

/-- PUSH: add one sample to the window (R140); a sample above 100 is BAD_OPERAND (R94, log entry 8). -/
def execPush (sample : BitVec 7) (s : State) : Host.Outcome State Fault Refusal :=
  match sampleOperand sample with
  | some d => .next (respond .poll .unit (pushSample d s))
  | none => .next (takeFault .badOperand .poll (encode (.push sample)) s)

/-- AVG: the window average (R141). -/
def execAvg (s : State) : Host.Outcome State Fault Refusal :=
  .next (respond .poll (.optNat s.win.average) s)

/-- ALLSAME: the stability gate (R142). -/
def execAllsame (s : State) : Host.Outcome State Fault Refusal :=
  .next (respond .poll (.bool (stable s)) s)

/-- SUM: the running sum (R143). -/
def execSum (s : State) : Host.Outcome State Fault Refusal :=
  .next (respond .poll (.nat s.win.sum) s)

/-- COUNT: the fill count (R144). -/
def execCount (s : State) : Host.Outcome State Fault Refusal :=
  .next (respond .poll (.nat s.win.count) s)

end Sys2Proof.Machine
end

