-- ==== Sys2Proof/Machine/WireText.lean ====
section
/-! DEFINITION. The number text and the command text of the WireEncoder (44_encoder.md R211 to R214, 30_encoding.md
R103, R104) and the duty-to-current map (R215). -/

namespace Sys2Proof.Machine

/-- The bytes of an ASCII literal (30_encoding.md R104, the code values PRESUMED there from general knowledge;
log entry 11). -/
def ascii (s : String) : Text := s.toList.map fun c => BitVec.ofNat 8 c.toNat

/-- The character of a decimal digit, `0` at 0x30 to `9` at 0x39 (R104). -/
def digitChar (d : Nat) : Byte := BitVec.ofNat 8 (0x30 + d)

/-- The decimal digits of `n`, at most `fuel` of them from the right. -/
def decDigits (fuel n : Nat) : Text :=
  match fuel with
  | 0 => []
  | k + 1 => if n < 10 then [digitChar n] else decDigits k (n / 10) ++ [digitChar (n % 10)]

/-- `dec(n)`: "the decimal digits of `n` with no leading zero; `dec(0) = "0"`" (00_scope.md R14). -/
def dec (n : Nat) : Text := decDigits (n + 1) n

/-- `dig2(n)` for `n <= 99`: two decimal digits, with a leading `0` when `n < 10` (00_scope.md R14). -/
def dig2 (n : Nat) : Text := [digitChar (n / 10), digitChar (n % 10)]

/-- The magnitude in hundredths, half away from zero: `(mag + 5) div 10` (R211). -/
def hundredths (mag : Nat) : Nat := (mag + 5) / 10

/-- `fmt(raw)` (R211); the sign is printed exactly when `raw < 0` (R212; conflict C2, log entry 12). -/
def fmt (raw : Int) : Text :=
  (if raw < 0 then ascii "-" else []) ++
    dec (hundredths raw.natAbs / 100) ++ ascii "." ++ dig2 (hundredths raw.natAbs % 100)

/-- `serialize(c)` (R214). -/
def serialize (c : PsuCommand) : Text :=
  match c with
  | .outputOn => ascii "OUT1"
  | .outputOff => ascii "OUT0"
  | .setCurrent amps => ascii "ISET1:" ++ fmt (fxOperand amps)
  | .setVoltage volts => ascii "VSET1:" ++ fmt (fxOperand volts)

/-- `current_of(d) = ((d - 10) * CURRENT_MAX) div 80`, FX raw, for the middle band (R215). -/
def currentOf (currentMax d : Nat) : Nat := (d - 10) * currentMax / 80

end Sys2Proof.Machine
end

