-- ==== Sys2Proof/Machine/Encoder.lean ====
section
/-! DEFINITION. WireEncoder: FMT and SER (44_encoder.md). -/

namespace Sys2Proof.Machine

/-- FMT: format one FX value with two decimals (R210). -/
def execFmt (val : Fx) (s : State) : Host.Outcome State Fault Refusal :=
  .next (respond .poll (.text (fmt (fxOperand val))) s)

/-- SER: serialise one command; it "emits nothing on the text output port" (R213); a payload on `OutputOn` or
`OutputOff` is BAD_OPERAND (R94, log entry 8). -/
def execSer (tag : BitVec 2) (val : Fx) (s : State) : Host.Outcome State Fault Refusal :=
  match commandOperand tag val with
  | some c => .next (respond .poll (.text (serialize c)) s)
  | none => .next (takeFault .badOperand .poll (encode (.ser tag val)) s)

end Sys2Proof.Machine
end

