-- ==== Sys2Proof/Machine/Policy.lean ====
section
/-! DEFINITION. ControlPolicy: TICK and its four stages, and SNAP (42_policy.md). -/

namespace Sys2Proof.Machine

/-- Stage 1: both counters go up by one and saturate (R161). -/
def tickCounters (s : State) : State :=
  { s with
    ticksSinceLastUpdate := satinc s.ticksSinceLastUpdate s.cfg.maxTicksBetweenUpdate
    ticksSinceLastSend := satinc s.ticksSinceLastSend s.cfg.minTicksBetweenSend }

/-- The value the policy calls "duty": the window average after the push, or the sample just pushed (R164). Both
"lie in [0, 100]"; the clamp of `toDuty` never binds while the window's invariant holds (log entry 9). -/
def policyDuty (sample : DutySample) (s : State) : DutySample :=
  match s.cfg.dutySource with
  | .average => toDuty (s.win.sum / s.win.count)
  | .latest => sample

/-- `build_batch(duty)`: the batch (R166). `OutputOn` goes first (conflict C1), and only when `output_enabled`
was 0. -/
def buildBatch (c : Config) (enabled : Bool) (duty : DutySample) : List PsuCommand :=
  if duty.val < 10 then
    [.outputOff, .setCurrent (fxOfNat c.currentFloor), .setVoltage (fxOfNat c.voltageSet)]
  else
    (if enabled then [] else [.outputOn]) ++
      [.setCurrent (fxOfNat (if duty.val < 90 then currentOf c.currentMax duty.val else c.currentMax))]

/-- Building and committing a batch: the flag is written at construction (R166), the commands are enqueued, then
`last_applied_duty` and the update counter are written (R167). -/
def commitBatch (duty : DutySample) (s : State) : State :=
  let s1 := { s with outputEnabled := outputEnabledFor duty }
  let s2 := enqueueBatch (buildBatch s.cfg s.outputEnabled duty) s1
  { s2 with lastAppliedDuty := duty, ticksSinceLastUpdate := 0 }

/-- Stage 3: decide. A decision that the space gate skips writes nothing (R165). -/
def tickDecide (sample : DutySample) (s : State) : State :=
  if actCondition (policyDuty sample s) s && spaceGate s then
    commitBatch (policyDuty sample s) s
  else s

/-- Stage 4: send. At most one command leaves the queue and its text is emitted (R169). -/
def tickSend (s : State) : State :=
  if sendGate s then
    match s.q.dequeue s.cfg.qCap with
    | some (c, q') => { emit (serialize c) { s with q := q' } with ticksSinceLastSend := 0 }
    | none => s
  else s

/-- The four stages in order (R160, decision D21). -/
def tickStages (s : State) : State :=
  tickSend (tickDecide (snapshot s) (pushSample (snapshot s) (tickCounters s)))

/-- TICK: one tick of the polling loop (R160). -/
def execTick (s : State) : Host.Outcome State Fault Refusal :=
  .next (respond .poll .unit (tickStages s))

/-- SNAP: read the shared sample cell (R171). -/
def execSnap (s : State) : Host.Outcome State Fault Refusal :=
  .next (respond .poll (.nat (snapshot s).val) s)

end Sys2Proof.Machine
end

