-- ==== Sys2Proof/Machine/Queue.lean ====
section
/-! DEFINITION. CommandQueue: ENQ, DEQ, SPACE, LEN, ISFULL, ISEMPTY (43_queue.md). -/

namespace Sys2Proof.Machine

/-- ENQ: append one command, evicting the oldest if full (R190); a payload on `OutputOn` or `OutputOff` is
BAD_OPERAND (R94, log entry 8). -/
def execEnq (tag : BitVec 2) (val : Fx) (s : State) : Host.Outcome State Fault Refusal :=
  match commandOperand tag val with
  | some c => .next (respond .poll .unit (enqueueCommand c s))
  | none => .next (takeFault .badOperand .poll (encode (.enq tag val)) s)

/-- DEQ: remove and return the oldest command; it emits nothing and leaves the send counter (R191). -/
def execDeq (s : State) : Host.Outcome State Fault Refusal :=
  match s.q.dequeue s.cfg.qCap with
  | some (c, q') => .next (respond .poll (.optCmd (some c)) { s with q := q' })
  | none => .next (respond .poll (.optCmd none) s)

/-- SPACE: free slots (R192). -/
def execSpace (s : State) : Host.Outcome State Fault Refusal :=
  .next (respond .poll (.nat (s.q.space s.cfg.qCap)) s)

/-- LEN: entries held (R193). -/
def execLen (s : State) : Host.Outcome State Fault Refusal :=
  .next (respond .poll (.nat s.q.count) s)

/-- ISFULL: whether the queue is full (R194). -/
def execIsfull (s : State) : Host.Outcome State Fault Refusal :=
  .next (respond .poll (.bool (s.q.isFull s.cfg.qCap)) s)

/-- ISEMPTY: whether the queue is empty (R195). -/
def execIsempty (s : State) : Host.Outcome State Fault Refusal :=
  .next (respond .poll (.bool s.q.isEmpty) s)

end Sys2Proof.Machine
end

