-- ==== Sys2Proof/Machine/Dispatch.lean ====
section
/-! DEFINITION. One arm per operation. -/

namespace Sys2Proof.Machine

def exec (i : Instr) (s : State) : Host.Outcome State Fault Refusal :=
  match i with
  | .capture ts => Sys2Proof.Machine.execCapture ts s
  | .push sample => Sys2Proof.Machine.execPush sample s
  | .avg => Sys2Proof.Machine.execAvg s
  | .allsame => Sys2Proof.Machine.execAllsame s
  | .sum => Sys2Proof.Machine.execSum s
  | .count => Sys2Proof.Machine.execCount s
  | .tick => Sys2Proof.Machine.execTick s
  | .snap => Sys2Proof.Machine.execSnap s
  | .enq tag val => Sys2Proof.Machine.execEnq tag val s
  | .deq => Sys2Proof.Machine.execDeq s
  | .space => Sys2Proof.Machine.execSpace s
  | .len => Sys2Proof.Machine.execLen s
  | .isfull => Sys2Proof.Machine.execIsfull s
  | .isempty => Sys2Proof.Machine.execIsempty s
  | .fmt val => Sys2Proof.Machine.execFmt val s
  | .ser tag val => Sys2Proof.Machine.execSer tag val s

end Sys2Proof.Machine
end

