-- ==== Sys2Proof/Machine/Step.lean ====
section
/-! DEFINITION. One step of the machine: the next input of the schedule, handled whole (00_scope.md R15, 20_memory.md
R74). -/

namespace Sys2Proof.Machine

/-- One input handled: a legal op word runs its operation, an illegal one takes the fault of R230 (R94), power-on
resets the block (R260). -/
def deliver (i : Input) (s : State) : Host.Outcome State Fault Refusal :=
  match i with
  | .op p w =>
    match decodeOn p w with
    | .ok instr => exec instr s
    | .error c => .next (takeFault c p w s)
  | .powerOn ok => .next (powerOnReset ok s)

/-- One step. With `init_ok` false "the run is stuck from the start" (R233). With nothing on a port the block's
state "stays as it is" (R246; log entry 4). -/
def step (s : State) : Host.Outcome State Fault Refusal :=
  if s.initOk then
    match fetch s with
    | none => .next s
    | some (i, s') => deliver i s'
  else .fault .initFailed

/-- `s` with one op word put first in the schedule, on the port that takes its opcode, and with the launch
condition true: the very next step handles that word (log entry 16). -/
def State.withFetchWord (s : State) (nbits w : Nat) : State :=
  { s with initOk := true, inbox := .op (homePort (tableWord nbits w)) (tableWord nbits w) :: s.inbox }

end Sys2Proof.Machine
end

