-- ==== Sys2Proof/Machine/Assembler.lean ====
section
/-! DEFINITION. The assembler syntax of 30_encoding.md R97 (decision D39): one line of text to the inputs it stands
for, `none` for an assembler error ("no op word is produced for it"). Lexical points the rule leaves open are in
log entry 14. -/

namespace Sys2Proof.Machine

/-! ## Tokens -/

/-- The token collected so far, held in reverse, if there is one. -/
def flushToken (rev : List Char) : List (List Char) := if rev.isEmpty then [] else [rev.reverse]

/-- The tokens of a line: "`;` starts a comment", white space separates, and a comma is a token of its own. -/
def tokensFrom (line rev : List Char) : List (List Char) :=
  match line with
  | [] => flushToken rev
  | c :: rest =>
    if c = ';' then flushToken rev
    else if c.isWhitespace then flushToken rev ++ tokensFrom rest []
    else if c = ',' then flushToken rev ++ [','] :: tokensFrom rest []
    else tokensFrom rest (c :: rev)

/-! ## Operands -/

/-- The value of a digit in this base. -/
def digitValue (base : Nat) (c : Char) : Option Nat :=
  let v :=
    if '0' ≤ c ∧ c ≤ '9' then c.toNat - 48
    else if 'a' ≤ c ∧ c ≤ 'f' then c.toNat - 87
    else if 'A' ≤ c ∧ c ≤ 'F' then c.toNat - 55
    else base
  if v < base then some v else none

/-- The value of a digit string, continuing from `acc`. -/
def digitsFrom (base acc : Nat) (cs : List Char) : Option Nat :=
  match cs with
  | [] => some acc
  | c :: rest =>
    match digitValue base c with
    | some v => digitsFrom base (acc * base + v) rest
    | none => none

/-- A numeral: at least one digit. -/
def numeral (base : Nat) (cs : List Char) : Option Nat :=
  if cs.isEmpty then none else digitsFrom base 0 cs

/-- `<u16>`: "decimal or `0x` hex, 0..65535". -/
def u16Operand (cs : List Char) : Option Timestamp :=
  match (match cs with
    | '0' :: 'x' :: rest => numeral 16 rest
    | _ => numeral 10 cs) with
  | some v => if v ≤ 65535 then some (BitVec.ofNat 16 v) else none
  | none => none

/-- The operand of PUSH, `<0..100>`. -/
def percentOperand (cs : List Char) : Option (BitVec 7) :=
  match numeral 10 cs with
  | some v => if v ≤ 100 then some (BitVec.ofNat 7 v) else none
  | none => none

/-- A raw value as FX; "A literal outside [-2^31, 2^31 - 1] raw" is an error. -/
def fxRaw (raw : Int) : Option Fx :=
  if -2147483648 ≤ raw ∧ raw ≤ 2147483647 then some (BitVec.ofInt 32 raw) else none

/-- The magnitude of a decimal literal in thousandths: digits, and "an optional `.` with one to three digits". -/
def thousandths (cs : List Char) : Option Nat :=
  let whole := cs.takeWhile (· != '.')
  match cs.dropWhile (· != '.') with
  | [] => (numeral 10 whole).map (· * 1000)
  | _ :: frac =>
    match numeral 10 whole, numeral 10 frac with
    | some w, some f => if frac.length ≤ 3 then some (w * 1000 + f * 10 ^ (3 - frac.length)) else none
    | _, _ => none

/-- `<fx>`: "an optional `-`, decimal digits, and an optional `.`", "times 1000, exactly", or `#<int>`, the raw value
itself. `<int>` may carry a `-` (95_test_vectors.md, section 2.1, `FMT #-2147483648`). That it is decimal only is
DESIGN CHOICE (log entry 14): R97 does not give its base. -/
def fxLiteral (cs : List Char) : Option Fx :=
  match cs with
  | '#' :: '-' :: rest => ((numeral 10 rest).map fun v => -(v : Int)).bind fxRaw
  | '#' :: rest => ((numeral 10 rest).map fun v => (v : Int)).bind fxRaw
  | '-' :: rest => ((thousandths rest).map fun v => -(v : Int)).bind fxRaw
  | _ => ((thousandths cs).map fun v => (v : Int)).bind fxRaw

/-- `<cmd>`: `ON`, `OFF`, `ISET <fx>` or `VSET <fx>`, as the tag and payload fields. -/
def commandLiteral (toks : List (List Char)) : Option (BitVec 2 × Fx) :=
  match toks with
  | [k] =>
    if k = "ON".toList then some (0#2, 0#32)
    else if k = "OFF".toList then some (1#2, 0#32)
    else none
  | [k, x] =>
    if k = "ISET".toList then (fxLiteral x).map fun v => (2#2, v)
    else if k = "VSET".toList then (fxLiteral x).map fun v => (3#2, v)
    else none
  | _ => none

/-- `<t1>, ..., <tk>`, at least one. -/
def timestampList (toks : List (List Char)) : Option (List Timestamp) :=
  match toks with
  | [] => none
  | [t] => (u16Operand t).map fun v => [v]
  | t :: sep :: rest =>
    if sep = [','] then
      match u16Operand t, timestampList rest with
      | some v, some vs => some (v :: vs)
      | _, _ => none
    else none

/-! ## Lines -/

/-- An operation as the input it is issued as: its op word on its port (R91). -/
def issue (i : Instr) : Input := .op i.port (encode i)

/-- The operations written with their mnemonic alone. -/
def bareMnemonic (m : List Char) : Option Instr :=
  if m = "AVG".toList then some .avg
  else if m = "ALLSAME".toList then some .allsame
  else if m = "SUM".toList then some .sum
  else if m = "COUNT".toList then some .count
  else if m = "TICK".toList then some .tick
  else if m = "SNAP".toList then some .snap
  else if m = "DEQ".toList then some .deq
  else if m = "SPACE".toList then some .space
  else if m = "LEN".toList then some .len
  else if m = "ISFULL".toList then some .isfull
  else if m = "ISEMPTY".toList then some .isempty
  else none

/-- A statement with operands: an operation, or one of the pseudo-instructions `TICKS <k>`, "with k >= 1", and
`EDGES <t1>, ..., <tk>`. -/
def operandStatement (m : List Char) (args : List (List Char)) : Option (List Input) :=
  if m = "CAPTURE".toList then
    match args with
    | [t] => (u16Operand t).map fun ts => [issue (.capture ts)]
    | _ => none
  else if m = "PUSH".toList then
    match args with
    | [x] => (percentOperand x).map fun v => [issue (.push v)]
    | _ => none
  else if m = "FMT".toList then
    match args with
    | [x] => (fxLiteral x).map fun v => [issue (.fmt v)]
    | _ => none
  else if m = "ENQ".toList then (commandLiteral args).map fun c => [issue (.enq c.1 c.2)]
  else if m = "SER".toList then (commandLiteral args).map fun c => [issue (.ser c.1 c.2)]
  else if m = "TICKS".toList then
    match args with
    | [k] => (numeral 10 k).bind fun v => if 1 ≤ v then some (List.replicate v (issue .tick)) else none
    | _ => none
  else if m = "EDGES".toList then (timestampList args).map fun ts => ts.map fun t => issue (.capture t)
  else none

/-- One line: its inputs in order; a blank line or a comment alone gives none. -/
def assembleLine (line : List Char) : Option (List Input) :=
  match tokensFrom line [] with
  | [] => some []
  | m :: args =>
    match bareMnemonic m with
    | some i => if args.isEmpty then some [issue i] else none
    | none => operandStatement m args

/-- A program: its lines in order; an error in any line is an error. -/
def assemble (lines : List (List Char)) : Option (List Input) :=
  match lines with
  | [] => some []
  | l :: rest =>
    match assembleLine l, assemble rest with
    | some xs, some ys => some (xs ++ ys)
    | _, _ => none

end Sys2Proof.Machine
end

