-- ==== Sys2Proof/Safety.lean ====
section
/-! DEFINITION. What statements are said in terms of: the invariant of a working block, runs of operations, the
causes of 30_encoding.md R94 computed from the opcode table's masks, what the policy built in a run, and the block
over lists (the window as the samples it holds, the queue as its entries), which the ring buffers refine. -/

namespace Sys2Proof.Machine

/-! ## The invariant of a working block -/

/-- The ranges of R38 to R41 and the window invariant R42. -/
abbrev WindowOk (n : Nat) (w : Window) : Prop :=
  w.slots.length = n ∧ w.head < n ∧ w.count ≤ n ∧ w.sum = (w.slots.map fun d => d.val).sum ∧
  (w.count < n → w.head = w.count ∧ ∀ i < n, w.count ≤ i → w.slots.getD i 0 = 0)

/-- The ranges of R48 to R50. -/
abbrev QueueOk (cap : Nat) (q : CommandQueue) : Prop :=
  q.ring.length = cap ∧ q.head < cap ∧ q.count ≤ cap

/-- A state of a block: a configuration that R6 allows, the window and the queue in shape, and both tick counters
within their tops (R45, R46). -/
abbrev State.Inv (s : State) : Prop :=
  s.cfg.Valid ∧ WindowOk s.cfg.n s.win ∧ QueueOk s.cfg.qCap s.q ∧
  s.ticksSinceLastUpdate ≤ s.cfg.maxTicksBetweenUpdate ∧
  s.ticksSinceLastSend ≤ s.cfg.minTicksBetweenSend

/-- The edge-select output asks for the edge the capture state waits for: FALLING exactly in
`AwaitingFallingEdge` (R35, R121 to R123). -/
abbrev State.EdgeAgrees (s : State) : Prop :=
  s.edgeSel = match s.cap with
    | .awaitingRisingEdge => .rising
    | .awaitingFallingEdge _ => .falling
    | .awaitingPeriodEnd _ _ => .rising

/-! ## Runs -/

/-- Operations one after another, stopping at the first that does not answer a next state. -/
def runOps (ops : List Instr) (s : State) : Host.Outcome State Fault Refusal :=
  match ops with
  | [] => .next s
  | i :: rest =>
    match exec i s with
    | .next t => runOps rest t
    | .fault r => .fault r
    | .refused r => .refused r

/-- How many operations of a list are ticks. -/
def ticksIn (ops : List Instr) : Nat := ops.countP (· == .tick)

/-! ## Causes, from the table -/

/-- One row of spec/opcode_table.json: the opcode, its `match` and its `mask`. -/
structure TableRow where
  opcode : Opcode
  pattern : Word
  mask : Word
  deriving DecidableEq, Repr

/-- The rows of spec/opcode_table.json in its order. -/
def opcodeTable : List TableRow :=
  [⟨.capture, 0x1000000000000000, 0xFFFFFFFFFFFF0000⟩,
   ⟨.push, 0x2000000000000000, 0xFFFFFFFFFFFFFF80⟩,
   ⟨.avg, 0x2100000000000000, 0xFFFFFFFFFFFFFFFF⟩,
   ⟨.allsame, 0x2200000000000000, 0xFFFFFFFFFFFFFFFF⟩,
   ⟨.sum, 0x2300000000000000, 0xFFFFFFFFFFFFFFFF⟩,
   ⟨.count, 0x2400000000000000, 0xFFFFFFFFFFFFFFFF⟩,
   ⟨.tick, 0x3000000000000000, 0xFFFFFFFFFFFFFFFF⟩,
   ⟨.snap, 0x3100000000000000, 0xFFFFFFFFFFFFFFFF⟩] ++
  [⟨.enq, 0x4000000000000000, 0xFFFFFFFC00000000⟩,
   ⟨.deq, 0x4100000000000000, 0xFFFFFFFFFFFFFFFF⟩,
   ⟨.space, 0x4200000000000000, 0xFFFFFFFFFFFFFFFF⟩,
   ⟨.len, 0x4300000000000000, 0xFFFFFFFFFFFFFFFF⟩,
   ⟨.isfull, 0x4400000000000000, 0xFFFFFFFFFFFFFFFF⟩,
   ⟨.isempty, 0x4500000000000000, 0xFFFFFFFFFFFFFFFF⟩,
   ⟨.fmt, 0x5000000000000000, 0xFFFFFFFF00000000⟩,
   ⟨.ser, 0x5100000000000000, 0xFFFFFFFC00000000⟩]

/-- The word's top byte is no row's (R94, first bullet). -/
def unassigned (w : Word) : Bool :=
  opcodeTable.all fun r => r.pattern.toNat / 2 ^ 56 != w.toNat / 2 ^ 56

/-- The word matches no row under its mask (R94, first and second bullets). -/
def matchesNoRow (w : Word) : Bool := opcodeTable.all fun r => w &&& r.mask != r.pattern

/-- R94, third bullet, on the numbers the word carries. -/
def operandOutOfRange (w : Word) : Bool :=
  (w.toNat / 2 ^ 56 == 0x20 && 100 < w.toNat % 2 ^ 32) ||
  ((w.toNat / 2 ^ 56 == 0x40 || w.toNat / 2 ^ 56 == 0x51) &&
    w.toNat / 2 ^ 32 % 4 ≤ 1 && w.toNat % 2 ^ 32 != 0)

/-- R94, fourth bullet: CAPTURE (top byte 0x10) on the poll port, or another opcode on the edge port. -/
def onWrongPort (p : Port) (w : Word) : Bool :=
  match p with
  | .edge => w.toNat / 2 ^ 56 != 0x10
  | .poll => w.toNat / 2 ^ 56 == 0x10

/-- The cause that R94 reports for a word on a port, checked "in the order listed"; `none` for a legal word. -/
def firstCause (p : Port) (w : Word) : Option Cause :=
  if unassigned w then some .illegalOpcode
  else if matchesNoRow w then some .reservedNonzero
  else if operandOutOfRange w then some .badOperand
  else if onWrongPort p w then some .wrongPort
  else none

/-! ## What the policy built -/

/-- The state that the decide stage of a TICK at `s` sees (R160, stages 1 and 2). -/
def atDecision (s : State) : State := pushSample (snapshot s) (tickCounters s)

/-- The duty of a TICK at `s` (R164). -/
def dutyAtTick (s : State) : DutySample := policyDuty (snapshot s) (atDecision s)

/-- A TICK at `s` builds a batch: the act condition and the space gate hold (R165). -/
def actsAt (s : State) : Bool :=
  actCondition (dutyAtTick s) (atDecision s) && spaceGate (atDecision s)

/-- The commands a TICK at `s` builds (R166). -/
def builtAt (s : State) : List PsuCommand :=
  if actsAt s then buildBatch s.cfg s.outputEnabled (dutyAtTick s) else []

/-- The commands the policy builds while a list of operations runs. -/
def builtIn (ops : List Instr) (s : State) : List PsuCommand :=
  match ops with
  | [] => []
  | i :: rest =>
    (if i = .tick then builtAt s else []) ++
      match exec i s with
      | .next t => builtIn rest t
      | .fault _ => []
      | .refused _ => []

/-- The `OutputOn` and `OutputOff` among some commands, in order. -/
def switches (cs : List PsuCommand) : List PsuCommand :=
  cs.filter fun c => c == .outputOn || c == .outputOff

/-! ## The block over lists -/

/-- The last `k` entries of a list. -/
def lastN {α : Type} (k : Nat) (l : List α) : List α := l.drop (l.length - k)

/-- The samples a window of capacity `n` holds, oldest first (R38, R39). -/
def Window.recent (n : Nat) (w : Window) : List DutySample :=
  (List.range w.count).map fun k => w.slots.getD ((w.head + (n - w.count) + k) % n) 0

/-- The block with its two rings read as lists. -/
structure ListBlock where
  cfg : Config
  cap : CapState
  edgeSel : EdgeSel
  sample : DutySample
  recent : List DutySample
  lastAppliedDuty : DutySample
  outputEnabled : Bool
  ticksSinceLastUpdate : Nat
  ticksSinceLastSend : Nat
  fifo : List PsuCommand
  fault : Bool
  selectOut : List EdgeSel
  textOut : List Text
  respOut : List Reply
  deriving DecidableEq, Repr

/-- The list view of a state. -/
def State.lists (s : State) : ListBlock where
  cfg := s.cfg
  cap := s.cap
  edgeSel := s.edgeSel
  sample := s.sample
  recent := s.win.recent s.cfg.n
  lastAppliedDuty := s.lastAppliedDuty
  outputEnabled := s.outputEnabled
  ticksSinceLastUpdate := s.ticksSinceLastUpdate
  ticksSinceLastSend := s.ticksSinceLastSend
  fifo := s.q.contents s.cfg.qCap
  fault := s.fault
  selectOut := s.selectOut
  textOut := s.textOut
  respOut := s.respOut

/-- A response on the poll port. -/
def ListBlock.answer (v : Response) (b : ListBlock) : ListBlock :=
  { b with respOut := b.respOut ++ [⟨.poll, v⟩] }

/-- A faulting word (R230). -/
def ListBlock.refuse (w : Word) (b : ListBlock) : ListBlock :=
  { b.answer (.fault .badOperand w) with fault := true }

/-- The window is full of one value: it "requires N consecutive identical samples" (R142). -/
def ListBlock.stable (b : ListBlock) : Bool :=
  b.recent.length == b.cfg.n && b.recent.all fun d => b.recent.all fun e => d == e

/-- `sum / count` over the samples held; `none` if there are none (R141). -/
def ListBlock.average (b : ListBlock) : Option Nat :=
  if b.recent = [] then none else some ((b.recent.map fun d => d.val).sum / b.recent.length)

/-- CAPTURE over numbers: the differences are modulo 2^16 (R120, R127). -/
def ListBlock.capture (ts : Timestamp) (b : ListBlock) : ListBlock :=
  let elapsed (r : Timestamp) : Nat := (ts.toNat + 65536 - r.toNat) % 65536
  let reply (d : Option DutySample) : List Reply := b.respOut ++ [⟨.edge, .optDuty d⟩]
  match b.cap with
  | .awaitingRisingEdge =>
    { b with cap := .awaitingFallingEdge ts, edgeSel := .falling,
             selectOut := b.selectOut ++ [.falling], respOut := reply none }
  | .awaitingFallingEdge r =>
    { b with cap := .awaitingPeriodEnd r (BitVec.ofNat 16 (elapsed r)), edgeSel := .rising,
             selectOut := b.selectOut ++ [.rising], respOut := reply none }
  | .awaitingPeriodEnd r w =>
    if elapsed r = 0 then
      { b with cap := .awaitingFallingEdge ts, edgeSel := .falling,
               selectOut := b.selectOut ++ [.falling], respOut := reply none }
    else
      let d : DutySample := toDuty (w.toNat * 100 / elapsed r)
      { b with cap := .awaitingFallingEdge ts, edgeSel := .falling, sample := d,
               selectOut := b.selectOut ++ [.falling], respOut := reply (some d) }

/-- Stages 1 and 2 of a tick over lists: the counters saturate and the window keeps the last `N` samples (R161,
R162). -/
def ListBlock.tickStart (b : ListBlock) : ListBlock :=
  { b with
    ticksSinceLastUpdate := min (b.ticksSinceLastUpdate + 1) b.cfg.maxTicksBetweenUpdate
    ticksSinceLastSend := min (b.ticksSinceLastSend + 1) b.cfg.minTicksBetweenSend
    recent := lastN b.cfg.n (b.recent ++ [b.sample]) }

/-- The duty of R164 over lists. -/
def ListBlock.duty (b : ListBlock) : DutySample :=
  match b.cfg.dutySource with
  | .average => toDuty (b.average.getD 0)
  | .latest => b.sample

/-- The act condition and the space gate of R165 over lists. -/
def ListBlock.acts (b : ListBlock) : Bool :=
  let late : Bool := b.ticksSinceLastUpdate == b.cfg.maxTicksBetweenUpdate
  (b.stable || late) && (b.duty != b.lastAppliedDuty || late) && (b.fifo.length + 2 ≤ b.cfg.qCap : Bool)

/-- Stage 3 over lists: the queue keeps the last `Q_CAP` commands (R166, R167). -/
def ListBlock.tickDecide (b : ListBlock) : ListBlock :=
  if b.acts then
    { b with
      fifo := lastN b.cfg.qCap (b.fifo ++ buildBatch b.cfg b.outputEnabled b.duty)
      outputEnabled := (10 ≤ b.duty.val : Bool)
      lastAppliedDuty := b.duty
      ticksSinceLastUpdate := 0 }
  else b

/-- Stage 4 over lists (R169). -/
def ListBlock.tickSend (b : ListBlock) : ListBlock :=
  match b.fifo with
  | [] => b
  | c :: rest =>
    if b.ticksSinceLastSend = b.cfg.minTicksBetweenSend then
      { b with fifo := rest, textOut := b.textOut ++ [serialize c], ticksSinceLastSend := 0 }
    else b

/-- TICK over lists (R160 to R169). -/
def ListBlock.tick (b : ListBlock) : ListBlock := b.tickStart.tickDecide.tickSend.answer .unit

/-- Every operation over lists. -/
def ListBlock.exec (i : Instr) (b : ListBlock) : ListBlock :=
  match i with
  | .capture ts => b.capture ts
  | .push sample =>
    match sampleOperand sample with
    | some d => { b with recent := lastN b.cfg.n (b.recent ++ [d]) }.answer .unit
    | none => b.refuse (encode i)
  | .avg => b.answer (.optNat b.average)
  | .allsame => b.answer (.bool b.stable)
  | .sum => b.answer (.nat (b.recent.map fun d => d.val).sum)
  | .count => b.answer (.nat b.recent.length)
  | .tick => b.tick
  | .snap => b.answer (.nat b.sample.val)
  | .enq tag val =>
    match commandOperand tag val with
    | some c => { b with fifo := lastN b.cfg.qCap (b.fifo ++ [c]) }.answer .unit
    | none => b.refuse (encode i)
  | .deq =>
    match b.fifo with
    | [] => b.answer (.optCmd none)
    | c :: rest => { b with fifo := rest }.answer (.optCmd (some c))
  | .space => b.answer (.nat (b.cfg.qCap - b.fifo.length))
  | .len => b.answer (.nat b.fifo.length)
  | .isfull => b.answer (.bool (b.fifo.length == b.cfg.qCap))
  | .isempty => b.answer (.bool b.fifo.isEmpty)
  | .fmt val => b.answer (.text (fmt (fxOperand val)))
  | .ser tag val =>
    match commandOperand tag val with
    | some c => b.answer (.text (serialize c))
    | none => b.refuse (encode i)

/-! ## Decimal text -/

/-- The number a digit string stands for. -/
def digitsValue (t : Text) : Nat := t.foldl (fun acc b => acc * 10 + (b.toNat - 48)) 0

/-- Every byte is `0` to `9` (R104). -/
def allDigits (t : Text) : Bool := t.all fun b => 48 ≤ b.toNat && b.toNat ≤ 57

end Sys2Proof.Machine
end

