-- ==== Sys2Proof/Certificates/Slice0/Obligations.lean ====
section
/-! DEFINITION. The statements for the provers. Each docstring names the rule of spec/ it formalises, or says that
it rests on a choice of the model and names the log entry. -/

open Sys2Proof Sys2Proof.Machine

/-! ## Encoding -/

/-- Decoding what the encoder writes gives the operation back, bare, on its own port, and through the transported
bytes (30_encoding.md R90 to R93, 20_memory.md R72). -/
def Obligations.EncodedInstructionDecodesToItself : Prop :=
  ∀ i : Instr, i.wellFormed = true →
    decode (encode i) = .ok i ∧ decodeOn i.port (encode i) = .ok i ∧
    decodeTableWord 64 (encode i).toNat = some i

/-- Each legal word has one meaning, and encoding that meaning gives the word back (R90 to R94). -/
def Obligations.DecodedWordEncodesBack : Prop :=
  ∀ (w : Word) (i : Instr), decode w = .ok i → i.wellFormed = true ∧ encode i = w

/-- Words of 95_test_vectors.md, section 2.1. -/
def Obligations.TestVectorWordsDecode : Prop :=
  decode 0x10000000000003E8 = .ok (.capture 1000#16) ∧ decode 0x2000000000000032 = .ok (.push 50#7) ∧
  decode 0x3000000000000000 = .ok .tick ∧ decode 0x40000002FFFFFFFF = .ok (.enq 2#2 (-1#32)) ∧
  decode 0x4000000100000000 = .ok (.enq 1#2 0#32) ∧ decode 0x4500000000000000 = .ok .isempty ∧
  decode 0x50000000000004D3 = .ok (.fmt 1235#32) ∧ decode 0x51000003FFFFFFFF = .ok (.ser 3#2 (-1#32))

/-- R94 and R230: the causes are those the table's masks and the operand values give, the first in the order listed
wins, and an illegal word sets the fault flag, is answered `fault(cause, word)` and has no other effect; a word with no
cause decodes. That the answer goes to the port the word came on is the model's reading (log entry 6): R13 does not
place it. -/
def Obligations.FirstCauseIsReported : Prop :=
  (∀ (p : Port) (w : Word) (c : Cause), decodeOn p w = .error c ↔ firstCause p w = some c) ∧
  (∀ (p : Port) (w : Word), firstCause p w = none ↔ ∃ i, decodeOn p w = .ok i) ∧
  (∀ (s : State) (p : Port) (w : Word) (rest : List Input) (c : Cause),
    s.initOk = true → s.inbox = .op p w :: rest → firstCause p w = some c →
    step s = .next { s with inbox := rest, fault := true, respOut := s.respOut ++ [⟨p, .fault c w⟩] })

/-- R72: byte `k` of a transported op word holds bits `[8k+7 : 8k]`, and eight bytes carry the word back. -/
def Obligations.TransportIsLeastSignificantByteFirst : Prop :=
  ∀ w : Word, wordOfBytes (bytesOfWord w) = some w ∧ (bytesOfWord w).length = 8 ∧
    ∀ k < 8, ((bytesOfWord w).getD k 0).toNat = w.toNat / 2 ^ (8 * k) % 256

/-! ## Steps, faults and power-on -/

/-- One step runs the operation its input decodes to, on the state without that input; and the word that
`withFetchWord` places is the one the very next step runs (how it places it is log entry 16). -/
def Obligations.StepRunsDecodedInstruction : Prop :=
  (∀ (s : State) (p : Port) (w : Word) (rest : List Input) (i : Instr),
    s.initOk = true → s.inbox = .op p w :: rest → decodeOn p w = .ok i →
    step s = exec i { s with inbox := rest }) ∧
  (∀ (s : State) (i : Instr), i.wellFormed = true →
    step (s.withFetchWord 64 (encode i).toNat) = exec i { s with initOk := true })

/-- Operands that R94 calls BAD_OPERAND, met by the operation itself: it takes the fault of R230 with the word
that carries them. That `exec` meets them at all is the model's form (log entry 8). -/
def Obligations.BadOperandsTakeFault : Prop :=
  (∀ (s : State) (b : BitVec 7), 100 < b.toNat →
    exec (.push b) s = .next { s with
      fault := true, respOut := s.respOut ++ [⟨.poll, .fault .badOperand (encode (.push b))⟩] }) ∧
  (∀ (s : State) (tag : BitVec 2) (val : Fx), tag.toNat ≤ 1 → val ≠ 0#32 →
    exec (.enq tag val) s = .next { s with
      fault := true, respOut := s.respOut ++ [⟨.poll, .fault .badOperand (encode (.enq tag val))⟩] } ∧
    exec (.ser tag val) s = .next { s with
      fault := true, respOut := s.respOut ++ [⟨.poll, .fault .badOperand (encode (.ser tag val))⟩] })

/-- R52: the fault flag is 0 after reset, an op word the block gives no meaning sets it, no operation clears it, and
of all steps only power-on does (power-on as an input is the model's form, log entry 7). -/
def Obligations.FaultFlagIsSticky : Prop :=
  (∀ c : Config, (State.resetWith c).fault = false) ∧
  (∀ (s : State) (p : Port) (w : Word) (rest : List Input) (c : Cause),
    s.initOk = true → s.inbox = .op p w :: rest → firstCause p w = some c →
    ∃ t, step s = .next t ∧ t.fault = true) ∧
  (∀ (i : Instr) (s t : State), exec i s = .next t → s.fault = true → t.fault = true) ∧
  (∀ s t : State, step s = .next t → s.fault = true →
    t.fault = true ∨ ∃ ok rest, s.inbox = .powerOn ok :: rest ∧ t.fault = false)

/-- R232: "A legal op word never faults": a word with no cause leaves the flag as it is and is answered, on its
port, with no fault response. -/
def Obligations.LegalWordNeverFaults : Prop :=
  ∀ (s : State) (p : Port) (w : Word) (rest : List Input),
    s.initOk = true → s.inbox = .op p w :: rest → firstCause p w = none →
    ∃ t v, step s = .next t ∧ t.fault = s.fault ∧ t.respOut = s.respOut ++ [⟨p, v⟩] ∧
      ∀ c w', v ≠ .fault c w'

/-- Every op word, legal or not, gets exactly one response, on the port it came on (R53, R55, R57; the port of a
fault response is log entry 6), and only that input is taken from the schedule. -/
def Obligations.EveryOpWordGetsOneResponse : Prop :=
  ∀ (s : State) (p : Port) (w : Word) (rest : List Input),
    s.initOk = true → s.inbox = .op p w :: rest →
    ∃ t v, step s = .next t ∧ t.respOut = s.respOut ++ [⟨p, v⟩] ∧ t.inbox = rest ∧ t.initOk = true

/-- With nothing on a port a step changes nothing: the model's reading of R246 (log entry 4). -/
def Obligations.IdleStepChangesNothing : Prop :=
  ∀ s : State, s.initOk = true → s.inbox = [] → step s = .next s

/-- R233: with `init_ok` false the run is stuck; a power-on that found it false emits nothing and ends there
(power-on as an input is the model's form, log entry 7). -/
def Obligations.FailedInitialisationHalts : Prop :=
  (∀ s : State, s.initOk = false → step s = .fault .initFailed) ∧
  (∀ (s : State) (rest : List Input), s.initOk = true → s.inbox = .powerOn false :: rest →
    ∃ t, step s = .next t ∧ step t = .fault .initFailed ∧
      t.textOut = s.textOut ∧ t.selectOut = s.selectOut ∧ t.respOut = s.respOut)

/-- A working block always has a next state, and nothing is refused: the only stop is R233's halt. -/
def Obligations.WorkingBlockAlwaysSteps : Prop :=
  (∀ s : State, s.initOk = true → ∃ t, step s = .next t) ∧ (∀ (s : State) (r : Refusal), step s ≠ .refused r)

/-- R260: power-on sets every element to its reset value and emits nothing, from every state; the state after
reset of any build has those values. The values of inbox, selectOut, textOut, respOut and initOk in the first clause are
the model's choice, not R260's (log entry 17); what power-on leaves of the environment's side of the ports is log
entry 7. -/
def Obligations.PowerOnResetsEveryElement : Prop :=
  (∀ c : Config, State.resetWith c =
    { cfg := c, initOk := true, inbox := [], cap := .awaitingRisingEdge, edgeSel := .rising, sample := 0,
      win := { slots := List.replicate c.n 0, head := 0, count := 0, sum := 0 },
      lastAppliedDuty := 0, outputEnabled := false, ticksSinceLastUpdate := 0, ticksSinceLastSend := 0,
      q := { ring := List.replicate c.qCap .outputOn, head := 0, count := 0 },
      fault := false, selectOut := [], textOut := [], respOut := [] }) ∧
  (∀ (s : State) (ok : Bool) (rest : List Input), s.initOk = true → s.inbox = .powerOn ok :: rest →
    step s = .next { State.resetWith s.cfg with
      initOk := ok, inbox := rest, selectOut := s.selectOut, textOut := s.textOut, respOut := s.respOut })

/-! ## Invariants -/

/-- Reset of every build that R6 allows meets the invariant, the reference block among them (whose parameters are the
model's choice, log entries 1 and 2). -/
def Obligations.ResetMeetsInvariant : Prop :=
  (∀ c : Config, c.Valid → (State.resetWith c).Inv ∧ (State.resetWith c).EdgeAgrees) ∧
  State.reset.Inv ∧ State.reset.EdgeAgrees

/-- The ranges of R38 to R50, the window invariant R42 and the counter tops of R45 and R46 hold after every step
from every state in which they hold. -/
def Obligations.StepKeepsInvariant : Prop :=
  ∀ s t : State, s.Inv → step s = .next t → t.Inv

/-- The edge-select output asks for the edge the capture state waits for, and every step keeps that. -/
def Obligations.StepKeepsEdgeAgreement : Prop :=
  ∀ s t : State, s.EdgeAgrees → step s = .next t → t.EdgeAgrees

/-- R8: no step writes a parameter of the build. -/
def Obligations.StepKeepsConfiguration : Prop :=
  ∀ s t : State, step s = .next t → t.cfg = s.cfg

/-! ## CAPTURE -/

/-- R121, step 1 of the algorithm, with its frame. -/
def Obligations.CaptureTakesRisingEdge : Prop :=
  ∀ (s : State) (ts : Timestamp), s.cap = .awaitingRisingEdge →
    exec (.capture ts) s = .next { s with
      cap := .awaitingFallingEdge ts, edgeSel := .falling,
      selectOut := s.selectOut ++ [.falling], respOut := s.respOut ++ [⟨.edge, .optDuty none⟩] }

/-- R122, step 2: the width is the difference modulo 2^16 (R12), with the frame. -/
def Obligations.CaptureMeasuresWidth : Prop :=
  ∀ (s : State) (ts r : Timestamp), s.cap = .awaitingFallingEdge r →
    ∃ w : BitVec 16, w.toNat = (ts.toNat + 65536 - r.toNat) % 65536 ∧
      exec (.capture ts) s = .next { s with
        cap := .awaitingPeriodEnd r w, edgeSel := .rising,
        selectOut := s.selectOut ++ [.rising], respOut := s.respOut ++ [⟨.edge, .optDuty none⟩] }

/-- R123 and R124, step 3: the period is the difference modulo 2^16; a positive period emits the truncated,
clamped percent; a zero period emits nothing; the request and the move are made either way. With the frame. -/
def Obligations.CaptureMeasuresPeriod : Prop :=
  ∀ (s : State) (ts r : Timestamp) (w : BitVec 16), s.cap = .awaitingPeriodEnd r w →
    ((ts.toNat + 65536 - r.toNat) % 65536 = 0 →
      exec (.capture ts) s = .next { s with
        cap := .awaitingFallingEdge ts, edgeSel := .falling,
        selectOut := s.selectOut ++ [.falling], respOut := s.respOut ++ [⟨.edge, .optDuty none⟩] }) ∧
    ((ts.toNat + 65536 - r.toNat) % 65536 ≠ 0 →
      ∃ d : DutySample,
        d.val = min (w.toNat * 100 / ((ts.toNat + 65536 - r.toNat) % 65536)) 100 ∧
        exec (.capture ts) s = .next { s with
          cap := .awaitingFallingEdge ts, edgeSel := .falling, sample := d,
          selectOut := s.selectOut ++ [.falling], respOut := s.respOut ++ [⟨.edge, .optDuty (some d)⟩] })

/-- R129: no CAPTURE leaves the machine in `AwaitingRisingEdge`, and no operation returns it there. -/
def Obligations.NoOperationReturnsToAwaitingRisingEdge : Prop :=
  (∀ (s t : State) (ts : Timestamp), exec (.capture ts) s = .next t → t.cap ≠ .awaitingRisingEdge) ∧
  (∀ (i : Instr) (s t : State), exec i s = .next t → s.cap ≠ .awaitingRisingEdge → t.cap ≠ .awaitingRisingEdge)

/-- R130: each CAPTURE makes exactly one request, which sets the level; from reset the requests alternate, FALLING
first, and the level after event `k` is FALLING for odd `k` and RISING for even `k`. -/
def Obligations.EdgeSelectRequestsAlternate : Prop :=
  (∀ (s : State) (ts : Timestamp), ∃ t e,
    exec (.capture ts) s = .next t ∧ t.selectOut = s.selectOut ++ [e] ∧ t.edgeSel = e) ∧
  (∀ (c : Config) (events : List Timestamp), ∃ t,
    runOps (events.map .capture) (State.resetWith c) = .next t ∧
    t.selectOut = (List.range events.length).map (fun k => if k % 2 = 0 then .falling else .rising) ∧
    t.edgeSel = if events.length % 2 = 1 then .falling else .rising)

/-- R133: CAPTURE reads and writes only the capture state, the edge select and the sample cell: two states that
agree there agree there afterwards and get the same response, and everything else is left alone. -/
def Obligations.CaptureTouchesOnlyCaptureState : Prop :=
  ∀ (s s' : State) (ts : Timestamp), s.cap = s'.cap → s.edgeSel = s'.edgeSel → s.sample = s'.sample →
    ∃ (c : CapState) (e : EdgeSel) (d : DutySample) (v : Response),
      exec (.capture ts) s = .next { s with
        cap := c, edgeSel := e, sample := d,
        selectOut := s.selectOut ++ [e], respOut := s.respOut ++ [⟨.edge, v⟩] } ∧
      exec (.capture ts) s' = .next { s' with
        cap := c, edgeSel := e, sample := d,
        selectOut := s'.selectOut ++ [e], respOut := s'.respOut ++ [⟨.edge, v⟩] }

/-- R127: only differences of timestamps count, modulo 2^16: an event stream and the same stream with every
timestamp shifted by `k`, wrapping, give the same responses, the same requests and the same sample. -/
def Obligations.TimestampOffsetDoesNotChangeSamples : Prop :=
  ∀ (c : Config) (k : Timestamp) (events : List Timestamp), ∃ t u,
    runOps (events.map .capture) (State.resetWith c) = .next t ∧
    runOps ((events.map (· + k)).map .capture) (State.resetWith c) = .next u ∧
    t.respOut = u.respOut ∧ t.selectOut = u.selectOut ∧ t.sample = u.sample

/-- R75: CAPTURE is the only writer of the sample cell, the capture state and the edge select; no poll-side
operation writes any of the three or makes an edge-select request. -/
def Obligations.PollOperationsKeepCaptureSide : Prop :=
  ∀ (i : Instr) (s t : State), i.port = .poll → exec i s = .next t →
    t.sample = s.sample ∧ t.cap = s.cap ∧ t.edgeSel = s.edgeSel ∧ t.selectOut = s.selectOut

/-- R74: a CAPTURE that leaves the sample cell as it was can be placed before or after any poll operation, and any
CAPTURE before or after a poll operation that takes no snapshot: each of the two gets the same response in either
order, and the two orders differ only in the order of these responses. -/
def Obligations.CaptureCommutesWithPollOperations : Prop :=
  ∀ (s u : State) (ts : Timestamp) (i : Instr), i.port = .poll → exec (.capture ts) s = .next u →
    (u.sample = s.sample ∨ (i ≠ .tick ∧ i ≠ .snap)) →
    ∃ (t t' : State) (a b : Reply), runOps [.capture ts, i] s = .next t ∧ runOps [i, .capture ts] s = .next t' ∧
      t.respOut = s.respOut ++ [a, b] ∧ t'.respOut = s.respOut ++ [b, a] ∧ a.port = .edge ∧ b.port = .poll ∧
      ({ t with respOut := [] } : State) = { t' with respOut := [] }

/-! ## The window -/

/-- R140: PUSH, with its frame; and the fault of an operand above 100, which R94 gives the word and which exec meets
only by the model's form (log entry 8). (In states that no block reaches the subtraction stops at 0: log entry 9.) -/
def Obligations.PushUpdatesWindow : Prop :=
  ∀ (s : State) (b : BitVec 7),
    (∀ d : DutySample, d.val = b.toNat →
      exec (.push b) s = .next { s with
        win := {
          slots := s.win.slots.set s.win.head d
          head := (s.win.head + 1) % s.cfg.n
          count := min (s.win.count + 1) s.cfg.n
          sum := s.win.sum - (if s.win.count = s.cfg.n then (s.win.slots.getD s.win.head 0).val else 0) + b.toNat }
        respOut := s.respOut ++ [⟨.poll, .unit⟩] }) ∧
    (100 < b.toNat →
      exec (.push b) s = .next { s with
        fault := true, respOut := s.respOut ++ [⟨.poll, .fault .badOperand (encode (.push b))⟩] })

/-- From a state of a block, PUSH keeps the newest `N` of the samples held and the new one, in order, and the
running sum stays their sum (R39, R42, R140). -/
def Obligations.PushKeepsNewestSamples : Prop :=
  ∀ (s : State) (b : BitVec 7), s.Inv → b.toNat ≤ 100 →
    ∃ (t : State) (d : DutySample), d.val = b.toNat ∧ exec (.push b) s = .next t ∧
      t.win.recent t.cfg.n = lastN s.cfg.n (s.win.recent s.cfg.n ++ [d]) ∧
      t.win.sum = ((t.win.recent t.cfg.n).map fun e => e.val).sum

/-- R145: after any pushes from reset the sum is that of the last `min(N, k)` values, and the count is
`min(N, k)`. -/
def Obligations.SumLawAfterPushes : Prop :=
  ∀ (c : Config) (values : List (BitVec 7)), c.Valid → (∀ b ∈ values, b.toNat ≤ 100) →
    ∃ t, runOps (values.map .push) (State.resetWith c) = .next t ∧
      t.win.sum = ((values.drop (values.length - min c.n values.length)).map fun b => b.toNat).sum ∧
      t.win.count = min c.n values.length

/-- R146: ALLSAME answers true exactly when at least `N` pushes have happened since reset and the last `N` pushed
values are equal. -/
def Obligations.StabilityLawAfterPushes : Prop :=
  ∀ (c : Config) (values : List (BitVec 7)), c.Valid → (∀ b ∈ values, b.toNat ≤ 100) →
    ∃ t answer, runOps (values.map .push) (State.resetWith c) = .next t ∧
      exec .allsame t = .next { t with respOut := t.respOut ++ [⟨.poll, .bool answer⟩] } ∧
      (answer = true ↔ c.n ≤ values.length ∧ ∀ a ∈ lastN c.n values, ∀ b ∈ lastN c.n values, a = b)

/-- R141 to R144: what AVG, ALLSAME, SUM and COUNT answer, with their frame: they write no state. -/
def Obligations.WindowQueriesAnswer : Prop :=
  ∀ s : State,
    exec .avg s = .next { s with respOut := s.respOut ++
      [⟨.poll, .optNat (if s.win.count = 0 then none else some (s.win.sum / s.win.count))⟩] } ∧
    (∃ answer : Bool,
      (answer = true ↔ s.win.count = s.cfg.n ∧ ∀ i < s.cfg.n, s.win.slots.getD i 0 = s.win.slots.getD 0 0) ∧
      exec .allsame s = .next { s with respOut := s.respOut ++ [⟨.poll, .bool answer⟩] }) ∧
    exec .sum s = .next { s with respOut := s.respOut ++ [⟨.poll, .nat s.win.sum⟩] } ∧
    exec .count s = .next { s with respOut := s.respOut ++ [⟨.poll, .nat s.win.count⟩] }

/-- R141, corner cases: from a state of a block AVG answers none exactly when the window is empty, and otherwise a
number in [0, 100]. -/
def Obligations.AverageIsPercent : Prop :=
  ∀ s : State, s.Inv → ∃ answer : Option Nat,
    exec .avg s = .next { s with respOut := s.respOut ++ [⟨.poll, .optNat answer⟩] } ∧
    (answer = none ↔ s.win.recent s.cfg.n = []) ∧ ∀ v, answer = some v → v ≤ 100

/-- R147: once the window is full it stays full, and no operation lowers its count. -/
def Obligations.FullWindowStaysFull : Prop :=
  ∀ (i : Instr) (s t : State), exec i s = .next t →
    (s.win.count = s.cfg.n → t.win.count = t.cfg.n) ∧ (s.win.count ≤ s.cfg.n → s.win.count ≤ t.win.count)

/-! ## The policy -/

/-- R160 to R169, one tick whole, from every state of a block. Both counters go up and saturate; the sample cell is
read and pushed; the policy acts exactly when `(stable or overdue) and (duty != last_applied_duty or overdue)` and
two slots are free; a decision writes the flag, the applied duty, the update counter and the queue, and a tick
without one writes none of them but the counter; at most one command is sent, exactly when the send counter has
reached its top and a command is there; nothing else changes. -/
def Obligations.TickDecidesAndSends : Prop :=
  ∀ s : State, s.Inv →
    let w := s.win.push s.cfg.n s.sample
    let since := min (s.ticksSinceLastUpdate + 1) s.cfg.maxTicksBetweenUpdate
    let late := since = s.cfg.maxTicksBetweenUpdate
    let steady := w.count = s.cfg.n ∧ ∀ i < s.cfg.n, w.slots.getD i 0 = w.slots.getD 0 0
    let entries := s.q.contents s.cfg.qCap
    let ready := s.cfg.minTicksBetweenSend ≤ s.ticksSinceLastSend + 1
    ∃ (duty : DutySample) (t : State) (queued sent : List PsuCommand),
      duty.val = (match s.cfg.dutySource with
        | .average => w.sum / w.count
        | .latest => s.sample.val) ∧
      exec .tick s = .next t ∧
      t = { s with
        win := w, lastAppliedDuty := t.lastAppliedDuty, outputEnabled := t.outputEnabled,
        ticksSinceLastUpdate := t.ticksSinceLastUpdate, ticksSinceLastSend := t.ticksSinceLastSend, q := t.q,
        textOut := s.textOut ++ sent.map serialize, respOut := s.respOut ++ [⟨.poll, .unit⟩] } ∧
      (((steady ∨ late) ∧ (duty ≠ s.lastAppliedDuty ∨ late) ∧ entries.length + 2 ≤ s.cfg.qCap →
          queued = lastN s.cfg.qCap (entries ++ buildBatch s.cfg s.outputEnabled duty) ∧
          t.outputEnabled = outputEnabledFor duty ∧ t.lastAppliedDuty = duty ∧ t.ticksSinceLastUpdate = 0) ∧
        (¬((steady ∨ late) ∧ (duty ≠ s.lastAppliedDuty ∨ late) ∧ entries.length + 2 ≤ s.cfg.qCap) →
          queued = entries ∧ t.outputEnabled = s.outputEnabled ∧
          t.lastAppliedDuty = s.lastAppliedDuty ∧ t.ticksSinceLastUpdate = since)) ∧
      queued = sent ++ t.q.contents s.cfg.qCap ∧
      (ready ∧ queued ≠ [] → sent.length = 1 ∧ t.ticksSinceLastSend = 0) ∧
      (¬(ready ∧ queued ≠ []) →
        sent = [] ∧ t.ticksSinceLastSend = min (s.ticksSinceLastSend + 1) s.cfg.minTicksBetweenSend)

/-- R166: the batch and the flag for each band; `OutputOn` only on the transition, and first. -/
def Obligations.BatchFollowsBand : Prop :=
  ∀ (c : Config) (enabled : Bool) (duty : DutySample), c.Valid →
    (duty.val < 10 → outputEnabledFor duty = false ∧
      ∃ floor volts : Fx, floor.toInt = c.currentFloor ∧ volts.toInt = c.voltageSet ∧
        buildBatch c enabled duty = [.outputOff, .setCurrent floor, .setVoltage volts]) ∧
    (10 ≤ duty.val → duty.val < 90 → outputEnabledFor duty = true ∧
      ∃ amps : Fx, amps.toInt = (((duty.val - 10) * c.currentMax / 80 : Nat) : Int) ∧
        buildBatch c enabled duty = (if enabled = false then [.outputOn] else []) ++ [.setCurrent amps]) ∧
    (90 ≤ duty.val → outputEnabledFor duty = true ∧
      ∃ amps : Fx, amps.toInt = c.currentMax ∧
        buildBatch c enabled duty = (if enabled = false then [.outputOn] else []) ++ [.setCurrent amps])

/-- R172: at a tick where the update counter reaches its top and two slots are free the policy acts, stable or not,
changed or not. -/
def Obligations.OverdueTickActs : Prop :=
  ∀ s : State, s.Inv → s.cfg.maxTicksBetweenUpdate ≤ s.ticksSinceLastUpdate + 1 →
    2 ≤ s.cfg.qCap - s.q.count →
    actsAt s = true ∧ ∃ t, exec .tick s = .next t ∧ t.ticksSinceLastUpdate = 0 ∧
      t.lastAppliedDuty = dutyAtTick s ∧ t.outputEnabled = outputEnabledFor (dutyAtTick s)

/-- R165, the skip: with fewer than two free slots nothing is built or enqueued, and the flag, the applied duty and
the update counter (but for its increment) keep their values, so an overdue tick stays overdue. -/
def Obligations.FullQueueSkipsDecision : Prop :=
  ∀ s : State, s.Inv → s.cfg.qCap - s.q.count < 2 →
    builtAt s = [] ∧ ∃ t, exec .tick s = .next t ∧ t.outputEnabled = s.outputEnabled ∧
      t.lastAppliedDuty = s.lastAppliedDuty ∧
      t.ticksSinceLastUpdate = min (s.ticksSinceLastUpdate + 1) s.cfg.maxTicksBetweenUpdate ∧
      (t.q.contents s.cfg.qCap = s.q.contents s.cfg.qCap ∨
       ∃ c, s.q.contents s.cfg.qCap = c :: t.q.contents s.cfg.qCap)

/-- R168: a lower-band batch into exactly two free slots evicts one entry: the oldest queued before it, or, with
`Q_CAP = 2`, its own `OutputOff`. (On a tick that sends nothing.) -/
def Obligations.LowerBandBatchEvictsOldest : Prop :=
  ∀ s : State, s.Inv → actsAt s = true → (dutyAtTick s).val < 10 → s.q.count + 2 = s.cfg.qCap →
    s.ticksSinceLastSend + 1 < s.cfg.minTicksBetweenSend →
    ∃ (t : State) (floor volts : Fx), exec .tick s = .next t ∧
      floor.toInt = s.cfg.currentFloor ∧ volts.toInt = s.cfg.voltageSet ∧
      (3 ≤ s.cfg.qCap → t.q.contents s.cfg.qCap =
        (s.q.contents s.cfg.qCap).tail ++ [.outputOff, .setCurrent floor, .setVoltage volts]) ∧
      (s.cfg.qCap = 2 → t.q.contents s.cfg.qCap = [.setCurrent floor, .setVoltage volts])

/-- R56: a TICK emits at most one text, that of a command, and no other operation emits. -/
def Obligations.OnlyTicksEmitAndAtMostOneText : Prop :=
  ∀ (i : Instr) (s t : State), exec i s = .next t →
    t.textOut = s.textOut ∨ (i = .tick ∧ ∃ c, t.textOut = s.textOut ++ [serialize c])

/-- R170: a tick that sends leaves the send counter at 0, as reset does; from there no text goes out before tick
`max(MIN_TICKS_BETWEEN_SEND, 1)`, whatever else is done, and at that tick one does if the queue holds a command. -/
def Obligations.SendsAreSpaced : Prop :=
  (∀ s t : State, exec .tick s = .next t → t.textOut ≠ s.textOut →
    t.ticksSinceLastSend = 0 ∧ ∃ c, t.textOut = s.textOut ++ [serialize c]) ∧
  (∀ c : Config, (State.resetWith c).ticksSinceLastSend = 0) ∧
  (∀ (s : State) (ops : List Instr), s.ticksSinceLastSend = 0 →
    ticksIn ops < max s.cfg.minTicksBetweenSend 1 →
    ∃ t, runOps ops s = .next t ∧ t.textOut = s.textOut ∧
      (ticksIn ops + 1 = max s.cfg.minTicksBetweenSend 1 → 0 < t.q.count →
        ∃ u c, exec .tick t = .next u ∧ u.textOut = t.textOut ++ [serialize c]))

/-- R173: a batch holds `OutputOn` only when the flag was 0; between two `OutputOn` that the policy builds in a run
there is an `OutputOff` it builds; a decision in the middle or upper band with the flag set builds only
`SetCurrent`. -/
def Obligations.OutputOnIsBuiltOnceUntilOutputOff : Prop :=
  (∀ s : State, .outputOn ∈ builtAt s → s.outputEnabled = false) ∧
  (∀ s : State, s.outputEnabled = true → actsAt s = true → 10 ≤ (dutyAtTick s).val →
    ∃ amps, builtAt s = [.setCurrent amps]) ∧
  (∀ (ops : List Instr) (s : State) (before between after : List PsuCommand),
    builtIn ops s = before ++ [.outputOn] ++ between ++ [.outputOn] ++ after → .outputOff ∈ between)

/-- R174: after any operations the flag is 1 exactly when the last `OutputOn` or `OutputOff` the policy built was
`OutputOn`, and as it was if it has built neither; in particular 0 after reset. -/
def Obligations.FlagFollowsLastSwitchBuilt : Prop :=
  (∀ (ops : List Instr) (s t : State), runOps ops s = .next t →
    t.outputEnabled = match (switches (builtIn ops s)).getLast? with
      | none => s.outputEnabled
      | some c => c == .outputOn) ∧
  (∀ c : Config, (State.resetWith c).outputEnabled = false)

/-- R175, for a queue that the space gate can pass (`2 <= Q_CAP`, which R269 asks for): from reset with the sample
cell holding 50, `N` ticks build exactly `OutputOn` then `SetCurrent(2.000)`, both at the `N`-th tick, and the wire
texts, sent or still queued, are `OUT1` then `ISET1:2.00`. (The texts' bytes are log entry 11.) -/
def Obligations.HeldDutyTurnsOutputOn : Prop :=
  ∀ c : Config, c.Valid → 2 ≤ c.qCap → c.n ≤ c.maxTicksBetweenUpdate → c.currentMax = 4000 →
    (∀ k < c.n, builtIn (List.replicate k .tick) { State.resetWith c with sample := 50 } = []) ∧
    builtIn (List.replicate c.n .tick) { State.resetWith c with sample := 50 } =
      [.outputOn, .setCurrent 2000#32] ∧
    ∃ t, runOps (List.replicate c.n .tick) { State.resetWith c with sample := 50 } = .next t ∧
      t.outputEnabled = true ∧ t.lastAppliedDuty = 50 ∧ t.ticksSinceLastUpdate = 0 ∧
      t.textOut ++ (t.q.contents c.qCap).map serialize = [ascii "OUT1", ascii "ISET1:2.00"]

/-- R171: SNAP answers the sample cell and writes nothing; the cell is not cleared. -/
def Obligations.SnapAnswersSampleCell : Prop :=
  ∀ s : State, exec .snap s = .next { s with respOut := s.respOut ++ [⟨.poll, .nat s.sample.val⟩] }

/-! ## The queue -/

/-- R190: ENQ, with its frame: the newest `Q_CAP` of the entries and the command are held, in order, and only the
queue changes; a payload on `OutputOn` or `OutputOff` takes the fault, which R94 gives the word and which exec meets
only by the model's form (log entry 8). -/
def Obligations.EnqueueAppendsNewest : Prop :=
  ∀ (s : State) (tag : BitVec 2) (val : Fx), s.Inv →
    (∀ c : PsuCommand, c.tag = tag → c.val = val →
      ∃ q : CommandQueue,
        exec (.enq tag val) s = .next { s with q := q, respOut := s.respOut ++ [⟨.poll, .unit⟩] } ∧
        q.contents s.cfg.qCap =
          (if s.q.count = s.cfg.qCap then (s.q.contents s.cfg.qCap).tail else s.q.contents s.cfg.qCap) ++ [c]) ∧
    (tag.toNat ≤ 1 → val ≠ 0#32 →
      exec (.enq tag val) s = .next { s with
        fault := true, respOut := s.respOut ++ [⟨.poll, .fault .badOperand (encode (.enq tag val))⟩] })

/-- R191: DEQ, with its frame: an empty queue answers none and changes nothing; else the oldest entry is answered
and the others are left in order; it emits no text and leaves the send counter. -/
def Obligations.DequeueTakesOldest : Prop :=
  ∀ s : State, s.Inv →
    (s.q.contents s.cfg.qCap = [] →
      exec .deq s = .next { s with respOut := s.respOut ++ [⟨.poll, .optCmd none⟩] }) ∧
    (∀ c rest, s.q.contents s.cfg.qCap = c :: rest →
      ∃ q : CommandQueue,
        exec .deq s = .next { s with q := q, respOut := s.respOut ++ [⟨.poll, .optCmd (some c)⟩] } ∧
        q.contents s.cfg.qCap = rest)

/-- R197: `k` ENQs into a queue holding `m` entries leave the newest `min(Q_CAP, m + k)` of the `m + k` commands,
in order. -/
def Obligations.EnqueuesKeepNewest : Prop :=
  ∀ (s : State) (cs : List PsuCommand), s.Inv →
    ∃ t, runOps (cs.map fun c => .enq c.tag c.val) s = .next t ∧
      t.q.contents s.cfg.qCap = lastN s.cfg.qCap (s.q.contents s.cfg.qCap ++ cs) ∧
      t.q.count = min s.cfg.qCap (s.q.count + cs.length)

/-- R196: as many DEQs as there are entries return them in the order they were enqueued and leave the queue
empty. -/
def Obligations.DequeuesReturnEntriesInOrder : Prop :=
  ∀ s : State, s.Inv →
    ∃ t, runOps (List.replicate s.q.count .deq) s = .next t ∧ t.q.count = 0 ∧
      t.respOut = s.respOut ++ (s.q.contents s.cfg.qCap).map fun c => ⟨.poll, .optCmd (some c)⟩

/-- R192 to R195: what SPACE, LEN, ISFULL and ISEMPTY answer, with their frame: they write no state. -/
def Obligations.QueueQueriesAnswer : Prop :=
  ∀ s : State,
    exec .space s = .next { s with respOut := s.respOut ++ [⟨.poll, .nat (s.cfg.qCap - s.q.count)⟩] } ∧
    exec .len s = .next { s with respOut := s.respOut ++ [⟨.poll, .nat s.q.count⟩] } ∧
    exec .isfull s = .next { s with respOut := s.respOut ++ [⟨.poll, .bool (decide (s.q.count = s.cfg.qCap))⟩] } ∧
    exec .isempty s = .next { s with respOut := s.respOut ++ [⟨.poll, .bool (decide (s.q.count = 0))⟩] }

/-- R198: after reset and after every operation, SPACE and LEN add up to `Q_CAP`. -/
def Obligations.SpaceAndLenAddToCapacity : Prop :=
  ∀ (c : Config) (ops : List Instr) (t : State), c.Valid → runOps ops (State.resetWith c) = .next t →
    ∃ free held : Nat,
      exec .space t = .next { t with respOut := t.respOut ++ [⟨.poll, .nat free⟩] } ∧
      exec .len t = .next { t with respOut := t.respOut ++ [⟨.poll, .nat held⟩] } ∧ free + held = c.qCap

/-! ## The encoder -/

/-- R210 to R212: FMT, with its frame, answers a sign exactly for a negative value, then the integer part with no
leading zero, a point and two digits, of the magnitude in hundredths rounded half away from zero. The sign of a
value that rounds to zero is the contract that U3 flags (log entry 12); the bytes are the ASCII codes of R104, which
that rule marks as general knowledge (log entry 11). -/
def Obligations.FormatWritesRoundedHundredths : Prop :=
  ∀ (s : State) (val : Fx), ∃ (int : Text) (tens ones : Byte),
    exec (.fmt val) s = .next { s with respOut := s.respOut ++
      [⟨.poll, .text ((if val.toInt < 0 then [0x2D#8] else []) ++ int ++ [0x2E#8, tens, ones])⟩] } ∧
    allDigits int = true ∧ int ≠ [] ∧ (int.head? = some 0x30#8 → int = [0x30#8]) ∧
    digitsValue int = (val.toInt.natAbs + 5) / 10 / 100 ∧
    tens.toNat = 48 + (val.toInt.natAbs + 5) / 10 % 100 / 10 ∧
    ones.toNat = 48 + (val.toInt.natAbs + 5) / 10 % 10

/-- R214: SER, with its frame, on each of the four commands; it emits nothing. The bytes are the ASCII codes of R104,
which that rule marks as general knowledge (log entry 11). -/
def Obligations.SerializeAnswersCommandText : Prop :=
  ∀ (s : State) (val : Fx),
    exec (.ser 0#2 0#32) s =
      .next { s with respOut := s.respOut ++ [⟨.poll, .text [0x4F#8, 0x55#8, 0x54#8, 0x31#8]⟩] } ∧
    exec (.ser 1#2 0#32) s =
      .next { s with respOut := s.respOut ++ [⟨.poll, .text [0x4F#8, 0x55#8, 0x54#8, 0x30#8]⟩] } ∧
    exec (.ser 2#2 val) s = .next { s with respOut := s.respOut ++
      [⟨.poll, .text ([0x49#8, 0x53#8, 0x45#8, 0x54#8, 0x31#8, 0x3A#8] ++ fmt val.toInt)⟩] } ∧
    exec (.ser 3#2 val) s = .next { s with respOut := s.respOut ++
      [⟨.poll, .text ([0x56#8, 0x53#8, 0x45#8, 0x54#8, 0x31#8, 0x3A#8] ++ fmt val.toInt)⟩] }

/-- R105: a command text has at most 17 bytes, and one has 17. -/
def Obligations.LongestTextHasSeventeenBytes : Prop :=
  (∀ c : PsuCommand, (serialize c).length ≤ 17) ∧ ∃ c : PsuCommand, (serialize c).length = 17

/-- R216: in the middle band the current is exact in FX and at most `CURRENT_MAX`, and its number text is that of the
exact real current rounded half away from zero to hundredths: the truncation of R215 changes no wire text. (The point's byte is
log entry 11.) -/
def Obligations.MiddleBandTextIsExact : Prop :=
  ∀ (c : Config) (d : Nat), c.Valid → 10 ≤ d → d < 90 →
    (fxOfNat (currentOf c.currentMax d)).toInt = currentOf c.currentMax d ∧
    currentOf c.currentMax d ≤ c.currentMax ∧
    ∃ h : Nat, (h : Int) = ⌊(((d : ℚ) - 10) / 80 * (c.currentMax : ℚ) / 1000 * 100 + 1 / 2)⌋ ∧
      fmt (fxOperand (fxOfNat (currentOf c.currentMax d))) = dec (h / 100) ++ ascii "." ++ dig2 (h % 100)

/-! ## All operations -/

/-- R77: SNAP, AVG, ALLSAME, SUM, COUNT, SPACE, LEN, ISFULL, ISEMPTY, FMT and SER write nothing, so each may be
repeated with the same response. -/
def Obligations.QueriesWriteNothing : Prop :=
  ∀ (i : Instr) (s : State), i.wellFormed = true →
    i.opcode ∈ [Opcode.snap, .avg, .allsame, .sum, .count, .space, .len, .isfull, .isempty, .fmt, .ser] →
    ∃ v, exec i s = .next { s with respOut := s.respOut ++ [⟨.poll, v⟩] } ∧
      runOps [i, i] s = .next { s with respOut := s.respOut ++ [⟨.poll, v⟩, ⟨.poll, v⟩] }

/-- The ring buffers refine lists: from every state of a block every operation answers a next state, and what it
does, read over lists, is the list block's operation (R42, R51, and the pseudocode of every operation). On operands that
R94 calls BAD_OPERAND, which no decoded operation has, both take the fault, and that is the model's form (log
entry 8). -/
def Obligations.OperationsRefineListBlock : Prop :=
  ∀ (i : Instr) (s : State), s.Inv → ∃ t, exec i s = .next t ∧ t.lists = s.lists.exec i

/-- R97: every input an assembled program issues is the op word of a well-formed operation, on the port that takes
it: no assembled word is illegal. (The lexical points that R97 leaves open are log entry 14.) -/
def Obligations.AssembledInputsAreLegal : Prop :=
  ∀ (lines : List (List Char)) (inputs : List Input), assemble lines = some inputs →
    ∀ x ∈ inputs, ∃ i : Instr, i.wellFormed = true ∧ x = .op i.port (encode i) ∧
      firstCause i.port (encode i) = none
end

