-- ==== Sys2Proof/Laws/Decode.lean ====
section
/-! SUPPORT. The fields of an encoded word, and what the decoder answers. -/

namespace Sys2Proof
theorem append_toNat {m n : Nat} (x : BitVec m) (y : BitVec n) : (x ++ y).toNat = x.toNat * 2 ^ n + y.toNat := by
  rw [BitVec.toNat_append, ← Nat.shiftLeft_add_eq_or_of_lt y.isLt, Nat.shiftLeft_eq]

theorem opWord_toNat (o : BitVec 8) (t : BitVec 2) (v : BitVec 32) :
    (opWord o t v).toNat = o.toNat * 2 ^ 56 + t.toNat * 2 ^ 32 + v.toNat := by
  simp only [opWord, append_toNat, BitVec.toNat_ofNat]; omega

@[simp] theorem opcField_opWord (o : BitVec 8) (t : BitVec 2) (v : BitVec 32) : opcField (opWord o t v) = o := by
  have := t.isLt; have := v.isLt; have := o.isLt
  apply BitVec.eq_of_toNat_eq
  simp only [opcField, BitVec.extractLsb'_toNat, opWord_toNat, Nat.shiftRight_eq_div_pow]; omega

@[simp] theorem rsvField_opWord (o : BitVec 8) (t : BitVec 2) (v : BitVec 32) : rsvField (opWord o t v) = 0#22 := by
  have := t.isLt; have := v.isLt; have := o.isLt
  apply BitVec.eq_of_toNat_eq
  simp only [rsvField, BitVec.extractLsb'_toNat, opWord_toNat, Nat.shiftRight_eq_div_pow, BitVec.toNat_ofNat]; omega

@[simp] theorem tagField_opWord (o : BitVec 8) (t : BitVec 2) (v : BitVec 32) : tagField (opWord o t v) = t := by
  have := t.isLt; have := v.isLt; have := o.isLt
  apply BitVec.eq_of_toNat_eq
  simp only [tagField, BitVec.extractLsb'_toNat, opWord_toNat, Nat.shiftRight_eq_div_pow]; omega

@[simp] theorem valField_opWord (o : BitVec 8) (t : BitVec 2) (v : BitVec 32) : valField (opWord o t v) = v := by
  have := t.isLt; have := v.isLt; have := o.isLt
  apply BitVec.eq_of_toNat_eq
  simp only [valField, BitVec.extractLsb'_toNat, opWord_toNat, Nat.shiftRight_eq_div_pow]; omega

/-- An op word is its four fields (R90). -/
theorem word_toNat_fields (w : Word) :
    w.toNat = (opcField w).toNat * 2 ^ 56 + (rsvField w).toNat * 2 ^ 34 + (tagField w).toNat * 2 ^ 32
      + (valField w).toNat := by
  have := w.isLt
  simp only [opcField, rsvField, tagField, valField, BitVec.extractLsb'_toNat, Nat.shiftRight_eq_div_pow]; omega

theorem opWord_fields {w : Word} (h : rsvField w = 0#22) : opWord (opcField w) (tagField w) (valField w) = w := by
  apply BitVec.eq_of_toNat_eq
  rw [opWord_toNat, word_toNat_fields w, h]; simp

theorem opcodeOf_code (o : Opcode) : opcodeOf o.code = some o := by cases o <;> rfl

theorem code_of_opcodeOf {b : BitVec 8} {o : Opcode} (h : opcodeOf b = some o) : o.code = b := by
  revert b o; decide

/-- The `VAL` of a CAPTURE word. -/
theorem captureVal_fields (ts : Timestamp) :
    (0#16 ++ ts : BitVec 32).extractLsb' 16 16 = 0#16 ∧ (0#16 ++ ts : BitVec 32).extractLsb' 0 16 = ts := by
  have h : (0#16 ++ ts : BitVec 32).toNat = ts.toNat := (append_toNat 0#16 ts).trans (by simp)
  have := ts.isLt
  constructor <;> apply BitVec.eq_of_toNat_eq <;>
    simp only [BitVec.extractLsb'_toNat, Nat.shiftRight_eq_div_pow, h, BitVec.toNat_ofNat] <;> omega

/-- The `VAL` of a PUSH word. -/
theorem pushVal_fields (b : BitVec 7) :
    (0#25 ++ b : BitVec 32).extractLsb' 7 25 = 0#25 ∧ (0#25 ++ b : BitVec 32).extractLsb' 0 7 = b := by
  have h : (0#25 ++ b : BitVec 32).toNat = b.toNat := (append_toNat 0#25 b).trans (by simp)
  have := b.isLt
  constructor <;> apply BitVec.eq_of_toNat_eq <;>
    simp only [BitVec.extractLsb'_toNat, Nat.shiftRight_eq_div_pow, h, BitVec.toNat_ofNat] <;> omega

/-- A `VAL` whose high half is 0 is that of a CAPTURE word. -/
theorem captureVal_of_zero {v : BitVec 32} (h : v.extractLsb' 16 16 = 0#16) :
    (0#16 ++ v.extractLsb' 0 16 : BitVec 32) = v := by
  have h1 := congrArg BitVec.toNat h
  have := v.isLt
  apply BitVec.eq_of_toNat_eq
  refine (append_toNat 0#16 _).trans ?_
  simp only [BitVec.extractLsb'_toNat, Nat.shiftRight_eq_div_pow, BitVec.toNat_ofNat] at h1 ⊢; omega

/-- A `VAL` whose bits above 6 are 0 is that of a PUSH word. -/
theorem pushVal_of_zero {v : BitVec 32} (h : v.extractLsb' 7 25 = 0#25) :
    (0#25 ++ v.extractLsb' 0 7 : BitVec 32) = v := by
  have h1 := congrArg BitVec.toNat h
  have := v.isLt
  apply BitVec.eq_of_toNat_eq
  refine (append_toNat 0#25 _).trans ?_
  simp only [BitVec.extractLsb'_toNat, Nat.shiftRight_eq_div_pow, BitVec.toNat_ofNat] at h1 ⊢; omega

/-- What the decoder answers, by the three tests it makes. -/
theorem decode_eq (w : Word) : decode w =
    match opcodeOf (opcField w) with
    | none => .error .illegalOpcode
    | some o =>
      if reservedBitsZero o w = false then .error .reservedNonzero
      else if (operandsOf o w).wellFormed = false then .error .badOperand
      else .ok (operandsOf o w) := by
  unfold decode
  cases opcodeOf (opcField w) with
  | none => rfl
  | some o => cases h : reservedBitsZero o w <;> cases h' : (operandsOf o w).wellFormed <;> simp [h, h']

/-- A word decodes to an operation exactly when all three tests pass. -/
theorem decode_ok {w : Word} {i : Instr} : decode w = .ok i ↔
    ∃ o, opcodeOf (opcField w) = some o ∧ reservedBitsZero o w = true ∧
      (operandsOf o w).wellFormed = true ∧ operandsOf o w = i := by
  rw [decode_eq]
  cases h : opcodeOf (opcField w) with
  | none => simp
  | some o =>
    cases h1 : reservedBitsZero o w <;> cases h2 : (operandsOf o w).wellFormed <;> simp [h1, h2]

/-- A word is legal on a port exactly when it decodes to an operation of that port. -/
theorem decodeOn_ok {p : Port} {w : Word} {i : Instr} : decodeOn p w = .ok i ↔ decode w = .ok i ∧ i.port = p := by
  unfold decodeOn
  cases decode w with
  | error c => simp
  | ok j =>
    simp only [Except.ok.injEq]
    constructor
    · intro h
      split at h
      · cases h; exact ⟨rfl, ‹_›⟩
      · cases h
    · rintro ⟨rfl, h⟩; exact if_pos h

/-- A word under a mask that keeps the bits from `k` up: the masks of spec/opcode_table.json are all of this form. -/
theorem toNat_and_highMask (w : Word) {k : Nat} (hk : k ≤ 64) :
    (w &&& BitVec.ofNat 64 (2 ^ 64 - 2 ^ k)).toNat = w.toNat / 2 ^ k * 2 ^ k := by
  have h1 : 2 ^ 64 - 2 ^ k = 2 ^ 64 - ((2 ^ k - 1) + 1) := by rw [Nat.sub_add_cancel Nat.one_le_two_pow]
  have hlt : 2 ^ k - 1 < 2 ^ 64 := by
    have := Nat.pow_le_pow_right (n := 2) (by decide) hk
    have := Nat.one_le_two_pow (n := k); omega
  apply Nat.eq_of_testBit_eq
  intro i
  rw [← Nat.shiftLeft_eq, ← Nat.shiftRight_eq_div_pow, BitVec.toNat_and, Nat.testBit_and, BitVec.toNat_ofNat,
    Nat.testBit_mod_two_pow, h1, Nat.testBit_two_pow_sub_succ hlt, Nat.testBit_two_pow_sub_one,
    Nat.testBit_shiftLeft, Nat.testBit_shiftRight]
  by_cases hi : i < 64
  · by_cases hik : i < k
    · simp [hi, hik]
    · simp [hi, hik, Nat.not_lt.mp hik]
  · have hw : w.toNat.testBit i = false :=
      Nat.testBit_lt_two_pow (Nat.lt_of_lt_of_le w.isLt (Nat.pow_le_pow_right (by decide) (by omega)))
    simp only [hi, hw, decide_false, Bool.false_and, Bool.and_false]
    by_cases hik : k ≤ i
    · simp [hik, Nat.add_sub_cancel' hik, hw]
    · simp [hik]

theorem and_highMask_eq {w p : Word} (k : Nat) (hk : k ≤ 64) :
    w &&& BitVec.ofNat 64 (2 ^ 64 - 2 ^ k) = p ↔ w.toNat / 2 ^ k * 2 ^ k = p.toNat := by
  rw [← BitVec.toNat_inj, toNat_and_highMask w hk]

theorem opcField_toNat (w : Word) : (opcField w).toNat = w.toNat / 2 ^ 56 := by
  have := w.isLt
  simp only [opcField, BitVec.extractLsb'_toNat, Nat.shiftRight_eq_div_pow]; omega

end Sys2Proof
end

