-- ==== Sys2Proof/Laws/Rings.lean ====
section
/-! SUPPORT. Indices around a ring, and the last entries of a list. -/

namespace Sys2Proof.Machine

/-- An index at most one turn around a ring. -/
theorem wrap_index {h k n : Nat} (hh : h < n) (hk : k ≤ n) :
    (h + k) % n = if h + k < n then h + k else h + k - n := by
  split
  · exact Nat.mod_eq_of_lt ‹_›
  · rw [Nat.mod_eq_sub_mod (by omega), Nat.mod_eq_of_lt (by omega)]
@[simp] theorem lastN_length {α : Type} (k : Nat) (l : List α) : (lastN k l).length = min k l.length := by
  simp [lastN]; omega

theorem lastN_of_le {α : Type} {k : Nat} {l : List α} (h : l.length ≤ k) : lastN k l = l := by
  simp [lastN, Nat.sub_eq_zero_of_le h]

theorem lastN_full {α : Type} {k : Nat} {l : List α} (a : α) (h : l.length = k) (hk : 1 ≤ k) :
    lastN k (l ++ [a]) = l.tail ++ [a] := by
  cases l with
  | nil => simp at h; omega
  | cons b l => simp [lastN, ← h]

theorem lastN_lastN_append {α : Type} (k : Nat) (l m : List α) :
    lastN k (lastN k l ++ m) = lastN k (l ++ m) := by
  simp only [lastN, List.drop_append, List.length_append, List.length_drop, List.drop_drop]
  congr 1
  · congr 1; omega
  · congr 1; omega

end Sys2Proof.Machine
end

