-- ==== Sys2Proof/Laws/Queue.lean ====
section
/-! SUPPORT. What the two ends of the queue do: they keep the invariant, and over the entries they are a list that keeps
its last Q_CAP entries. -/

namespace Sys2Proof.Machine

@[simp] theorem contents_length (cap : Nat) (q : CommandQueue) : (q.contents cap).length = q.count := by
  simp [CommandQueue.contents]

theorem contents_getElem {cap : Nat} {q : CommandQueue} {k : Nat} (h : k < (q.contents cap).length) :
    (q.contents cap)[k] = q.ring.getD ((q.head + k) % cap) .outputOn := by
  simp [CommandQueue.contents]

theorem evict_ok {cap : Nat} {q : CommandQueue} (hq : QueueOk cap q) :
    QueueOk cap (q.evict cap) ∧ (q.evict cap).count < cap := by
  obtain ⟨hr, hh, hc⟩ := hq
  unfold CommandQueue.evict
  split
  · exact ⟨⟨hr, Nat.mod_lt _ (by omega), by simp; omega⟩, by simp; omega⟩
  · exact ⟨⟨hr, hh, hc⟩, by omega⟩

theorem contents_evict {cap : Nat} {q : CommandQueue} :
    (q.evict cap).contents cap = if q.count = cap then (q.contents cap).tail else q.contents cap := by
  unfold CommandQueue.evict
  split
  · refine List.ext_getElem (by simp) fun k h1 h2 => ?_
    rw [contents_getElem, List.getElem_tail, contents_getElem]
    simp only [List.getD_eq_getElem?_getD, Nat.mod_add_mod, show q.head + 1 + k = q.head + (k + 1) by omega]
  · rfl

theorem append_ok {cap : Nat} {q : CommandQueue} (c : PsuCommand) (hq : QueueOk cap q) (h : q.count < cap) :
    QueueOk cap (q.append cap c) := by
  obtain ⟨hr, hh, hc⟩ := hq
  exact ⟨by simp [CommandQueue.append, hr], hh, by simp [CommandQueue.append]; omega⟩

theorem contents_append {cap : Nat} {q : CommandQueue} (c : PsuCommand) (hq : QueueOk cap q)
    (h : q.count < cap) : (q.append cap c).contents cap = q.contents cap ++ [c] := by
  obtain ⟨hr, hh, hc⟩ := hq
  refine List.ext_getElem (by simp [CommandQueue.append]) fun k h1 h2 => ?_
  have hk : k ≤ q.count := by simp [CommandQueue.append] at h1; omega
  rw [contents_getElem, List.getElem_append]
  have hw := wrap_index hh (Nat.le_of_lt h)
  have hwk : (q.head + k) % cap = _ := wrap_index hh (by omega)
  simp only [CommandQueue.append, List.getD_eq_getElem?_getD, List.getElem?_set, contents_length, hr]
  by_cases hlt : k < q.count
  · rw [dif_pos hlt, contents_getElem, List.getD_eq_getElem?_getD, if_neg]
    rw [hw, hwk]; split <;> split <;> omega
  · obtain rfl : k = q.count := by omega
    rw [dif_neg hlt, if_pos rfl, if_pos (Nat.mod_lt _ (by omega))]
    simp

theorem enqueue_ok {cap : Nat} {q : CommandQueue} (c : PsuCommand) (hq : QueueOk cap q) :
    QueueOk cap (q.enqueue cap c) :=
  append_ok c (evict_ok hq).1 (evict_ok hq).2

/-- ENQ keeps the newest `cap` of the entries and the new command, in order. -/
theorem contents_enqueue {cap : Nat} {q : CommandQueue} (c : PsuCommand) (hq : QueueOk cap q) :
    (q.enqueue cap c).contents cap = lastN cap (q.contents cap ++ [c]) := by
  rw [CommandQueue.enqueue, contents_append c (evict_ok hq).1 (evict_ok hq).2, contents_evict]
  have := hq.2.2
  have h1 := hq.2.1
  split
  · rename_i h
    have hd : (q.contents cap ++ [c]).length - cap = 1 := by simp [h]
    rw [lastN, hd]
    cases hx : q.contents cap with
    | nil => simp [← contents_length cap q, hx] at h; omega
    | cons a l => simp
  · rw [lastN_of_le (by simp; omega)]

theorem dequeue_none {cap : Nat} {q : CommandQueue} : q.dequeue cap = none ↔ q.contents cap = [] := by
  rw [← List.length_eq_zero_iff, contents_length]
  unfold CommandQueue.dequeue
  split <;> simp_all

/-- DEQ takes the oldest entry and leaves the others in order. -/
theorem dequeue_some {cap : Nat} {q q' : CommandQueue} {c : PsuCommand} (hq : QueueOk cap q)
    (h : q.dequeue cap = some (c, q')) :
    q.contents cap = c :: q'.contents cap ∧ QueueOk cap q' := by
  obtain ⟨hr, hh, hc⟩ := hq
  unfold CommandQueue.dequeue at h
  split at h
  · cases h
  · rename_i h0
    simp only [Option.some.injEq, Prod.mk.injEq] at h
    obtain ⟨rfl, rfl⟩ := h
    refine ⟨?_, hr, Nat.mod_lt _ (by omega), by simp; omega⟩
    refine List.ext_getElem (by simp; omega) fun k h1 h2 => ?_
    rw [contents_getElem]
    cases k with
    | zero => simp [Nat.mod_eq_of_lt hh]
    | succ k =>
      rw [List.getElem_cons_succ, contents_getElem]
      simp only [List.getD_eq_getElem?_getD, Nat.mod_add_mod, show q.head + 1 + k = q.head + (k + 1) by omega]

theorem queueEmpty_ok {cap : Nat} (h : 1 ≤ cap) : QueueOk cap (CommandQueue.empty cap) := by
  simp [QueueOk, CommandQueue.empty]; omega

end Sys2Proof.Machine
end

