-- ==== Sys2Proof/Laws/State.lean ====
section
/-! SUPPORT. One lemma per field of State per shared update, each true by rfl: no later proof unfolds a record update. -/

namespace Sys2Proof.Machine

/-! ## respond -/

@[simp] theorem respond_cfg (p : Port) (v : Response) (s : State) :
    (respond p v s).cfg = s.cfg := rfl

@[simp] theorem respond_initOk (p : Port) (v : Response) (s : State) :
    (respond p v s).initOk = s.initOk := rfl

@[simp] theorem respond_inbox (p : Port) (v : Response) (s : State) :
    (respond p v s).inbox = s.inbox := rfl

@[simp] theorem respond_cap (p : Port) (v : Response) (s : State) :
    (respond p v s).cap = s.cap := rfl

@[simp] theorem respond_edgeSel (p : Port) (v : Response) (s : State) :
    (respond p v s).edgeSel = s.edgeSel := rfl

@[simp] theorem respond_sample (p : Port) (v : Response) (s : State) :
    (respond p v s).sample = s.sample := rfl

@[simp] theorem respond_win (p : Port) (v : Response) (s : State) :
    (respond p v s).win = s.win := rfl

@[simp] theorem respond_lastAppliedDuty (p : Port) (v : Response) (s : State) :
    (respond p v s).lastAppliedDuty = s.lastAppliedDuty := rfl

@[simp] theorem respond_outputEnabled (p : Port) (v : Response) (s : State) :
    (respond p v s).outputEnabled = s.outputEnabled := rfl

@[simp] theorem respond_ticksSinceLastUpdate (p : Port) (v : Response) (s : State) :
    (respond p v s).ticksSinceLastUpdate = s.ticksSinceLastUpdate := rfl

@[simp] theorem respond_ticksSinceLastSend (p : Port) (v : Response) (s : State) :
    (respond p v s).ticksSinceLastSend = s.ticksSinceLastSend := rfl

@[simp] theorem respond_q (p : Port) (v : Response) (s : State) :
    (respond p v s).q = s.q := rfl

@[simp] theorem respond_fault (p : Port) (v : Response) (s : State) :
    (respond p v s).fault = s.fault := rfl

@[simp] theorem respond_selectOut (p : Port) (v : Response) (s : State) :
    (respond p v s).selectOut = s.selectOut := rfl

@[simp] theorem respond_textOut (p : Port) (v : Response) (s : State) :
    (respond p v s).textOut = s.textOut := rfl

@[simp] theorem respond_respOut (p : Port) (v : Response) (s : State) :
    (respond p v s).respOut = s.respOut ++ [⟨p, v⟩] := rfl

/-! ## emit -/

@[simp] theorem emit_cfg (t : Text) (s : State) :
    (emit t s).cfg = s.cfg := rfl

@[simp] theorem emit_initOk (t : Text) (s : State) :
    (emit t s).initOk = s.initOk := rfl

@[simp] theorem emit_inbox (t : Text) (s : State) :
    (emit t s).inbox = s.inbox := rfl

@[simp] theorem emit_cap (t : Text) (s : State) :
    (emit t s).cap = s.cap := rfl

@[simp] theorem emit_edgeSel (t : Text) (s : State) :
    (emit t s).edgeSel = s.edgeSel := rfl

@[simp] theorem emit_sample (t : Text) (s : State) :
    (emit t s).sample = s.sample := rfl

@[simp] theorem emit_win (t : Text) (s : State) :
    (emit t s).win = s.win := rfl

@[simp] theorem emit_lastAppliedDuty (t : Text) (s : State) :
    (emit t s).lastAppliedDuty = s.lastAppliedDuty := rfl

@[simp] theorem emit_outputEnabled (t : Text) (s : State) :
    (emit t s).outputEnabled = s.outputEnabled := rfl

@[simp] theorem emit_ticksSinceLastUpdate (t : Text) (s : State) :
    (emit t s).ticksSinceLastUpdate = s.ticksSinceLastUpdate := rfl

@[simp] theorem emit_ticksSinceLastSend (t : Text) (s : State) :
    (emit t s).ticksSinceLastSend = s.ticksSinceLastSend := rfl

@[simp] theorem emit_q (t : Text) (s : State) :
    (emit t s).q = s.q := rfl

@[simp] theorem emit_fault (t : Text) (s : State) :
    (emit t s).fault = s.fault := rfl

@[simp] theorem emit_selectOut (t : Text) (s : State) :
    (emit t s).selectOut = s.selectOut := rfl

@[simp] theorem emit_textOut (t : Text) (s : State) :
    (emit t s).textOut = s.textOut ++ [t] := rfl

@[simp] theorem emit_respOut (t : Text) (s : State) :
    (emit t s).respOut = s.respOut := rfl

/-! ## requestEdge -/

@[simp] theorem requestEdge_cfg (e : EdgeSel) (s : State) :
    (requestEdge e s).cfg = s.cfg := rfl

@[simp] theorem requestEdge_initOk (e : EdgeSel) (s : State) :
    (requestEdge e s).initOk = s.initOk := rfl

@[simp] theorem requestEdge_inbox (e : EdgeSel) (s : State) :
    (requestEdge e s).inbox = s.inbox := rfl

@[simp] theorem requestEdge_cap (e : EdgeSel) (s : State) :
    (requestEdge e s).cap = s.cap := rfl

@[simp] theorem requestEdge_edgeSel (e : EdgeSel) (s : State) :
    (requestEdge e s).edgeSel = e := rfl

@[simp] theorem requestEdge_sample (e : EdgeSel) (s : State) :
    (requestEdge e s).sample = s.sample := rfl

@[simp] theorem requestEdge_win (e : EdgeSel) (s : State) :
    (requestEdge e s).win = s.win := rfl

@[simp] theorem requestEdge_lastAppliedDuty (e : EdgeSel) (s : State) :
    (requestEdge e s).lastAppliedDuty = s.lastAppliedDuty := rfl

@[simp] theorem requestEdge_outputEnabled (e : EdgeSel) (s : State) :
    (requestEdge e s).outputEnabled = s.outputEnabled := rfl

@[simp] theorem requestEdge_ticksSinceLastUpdate (e : EdgeSel) (s : State) :
    (requestEdge e s).ticksSinceLastUpdate = s.ticksSinceLastUpdate := rfl

@[simp] theorem requestEdge_ticksSinceLastSend (e : EdgeSel) (s : State) :
    (requestEdge e s).ticksSinceLastSend = s.ticksSinceLastSend := rfl

@[simp] theorem requestEdge_q (e : EdgeSel) (s : State) :
    (requestEdge e s).q = s.q := rfl

@[simp] theorem requestEdge_fault (e : EdgeSel) (s : State) :
    (requestEdge e s).fault = s.fault := rfl

@[simp] theorem requestEdge_selectOut (e : EdgeSel) (s : State) :
    (requestEdge e s).selectOut = s.selectOut ++ [e] := rfl

@[simp] theorem requestEdge_textOut (e : EdgeSel) (s : State) :
    (requestEdge e s).textOut = s.textOut := rfl

@[simp] theorem requestEdge_respOut (e : EdgeSel) (s : State) :
    (requestEdge e s).respOut = s.respOut := rfl

/-! ## pushSample -/

@[simp] theorem pushSample_cfg (d : DutySample) (s : State) :
    (pushSample d s).cfg = s.cfg := rfl

@[simp] theorem pushSample_initOk (d : DutySample) (s : State) :
    (pushSample d s).initOk = s.initOk := rfl

@[simp] theorem pushSample_inbox (d : DutySample) (s : State) :
    (pushSample d s).inbox = s.inbox := rfl

@[simp] theorem pushSample_cap (d : DutySample) (s : State) :
    (pushSample d s).cap = s.cap := rfl

@[simp] theorem pushSample_edgeSel (d : DutySample) (s : State) :
    (pushSample d s).edgeSel = s.edgeSel := rfl

@[simp] theorem pushSample_sample (d : DutySample) (s : State) :
    (pushSample d s).sample = s.sample := rfl

@[simp] theorem pushSample_win (d : DutySample) (s : State) :
    (pushSample d s).win = s.win.push s.cfg.n d := rfl

@[simp] theorem pushSample_lastAppliedDuty (d : DutySample) (s : State) :
    (pushSample d s).lastAppliedDuty = s.lastAppliedDuty := rfl

@[simp] theorem pushSample_outputEnabled (d : DutySample) (s : State) :
    (pushSample d s).outputEnabled = s.outputEnabled := rfl

@[simp] theorem pushSample_ticksSinceLastUpdate (d : DutySample) (s : State) :
    (pushSample d s).ticksSinceLastUpdate = s.ticksSinceLastUpdate := rfl

@[simp] theorem pushSample_ticksSinceLastSend (d : DutySample) (s : State) :
    (pushSample d s).ticksSinceLastSend = s.ticksSinceLastSend := rfl

@[simp] theorem pushSample_q (d : DutySample) (s : State) :
    (pushSample d s).q = s.q := rfl

@[simp] theorem pushSample_fault (d : DutySample) (s : State) :
    (pushSample d s).fault = s.fault := rfl

@[simp] theorem pushSample_selectOut (d : DutySample) (s : State) :
    (pushSample d s).selectOut = s.selectOut := rfl

@[simp] theorem pushSample_textOut (d : DutySample) (s : State) :
    (pushSample d s).textOut = s.textOut := rfl

@[simp] theorem pushSample_respOut (d : DutySample) (s : State) :
    (pushSample d s).respOut = s.respOut := rfl

/-! ## enqueueCommand -/

@[simp] theorem enqueueCommand_cfg (c : PsuCommand) (s : State) :
    (enqueueCommand c s).cfg = s.cfg := rfl

@[simp] theorem enqueueCommand_initOk (c : PsuCommand) (s : State) :
    (enqueueCommand c s).initOk = s.initOk := rfl

@[simp] theorem enqueueCommand_inbox (c : PsuCommand) (s : State) :
    (enqueueCommand c s).inbox = s.inbox := rfl

@[simp] theorem enqueueCommand_cap (c : PsuCommand) (s : State) :
    (enqueueCommand c s).cap = s.cap := rfl

@[simp] theorem enqueueCommand_edgeSel (c : PsuCommand) (s : State) :
    (enqueueCommand c s).edgeSel = s.edgeSel := rfl

@[simp] theorem enqueueCommand_sample (c : PsuCommand) (s : State) :
    (enqueueCommand c s).sample = s.sample := rfl

@[simp] theorem enqueueCommand_win (c : PsuCommand) (s : State) :
    (enqueueCommand c s).win = s.win := rfl

@[simp] theorem enqueueCommand_lastAppliedDuty (c : PsuCommand) (s : State) :
    (enqueueCommand c s).lastAppliedDuty = s.lastAppliedDuty := rfl

@[simp] theorem enqueueCommand_outputEnabled (c : PsuCommand) (s : State) :
    (enqueueCommand c s).outputEnabled = s.outputEnabled := rfl

@[simp] theorem enqueueCommand_ticksSinceLastUpdate (c : PsuCommand) (s : State) :
    (enqueueCommand c s).ticksSinceLastUpdate = s.ticksSinceLastUpdate := rfl

@[simp] theorem enqueueCommand_ticksSinceLastSend (c : PsuCommand) (s : State) :
    (enqueueCommand c s).ticksSinceLastSend = s.ticksSinceLastSend := rfl

@[simp] theorem enqueueCommand_q (c : PsuCommand) (s : State) :
    (enqueueCommand c s).q = s.q.enqueue s.cfg.qCap c := rfl

@[simp] theorem enqueueCommand_fault (c : PsuCommand) (s : State) :
    (enqueueCommand c s).fault = s.fault := rfl

@[simp] theorem enqueueCommand_selectOut (c : PsuCommand) (s : State) :
    (enqueueCommand c s).selectOut = s.selectOut := rfl

@[simp] theorem enqueueCommand_textOut (c : PsuCommand) (s : State) :
    (enqueueCommand c s).textOut = s.textOut := rfl

@[simp] theorem enqueueCommand_respOut (c : PsuCommand) (s : State) :
    (enqueueCommand c s).respOut = s.respOut := rfl

/-! ## takeFault -/

@[simp] theorem takeFault_cfg (c : Cause) (p : Port) (w : Word) (s : State) :
    (takeFault c p w s).cfg = s.cfg := rfl

@[simp] theorem takeFault_initOk (c : Cause) (p : Port) (w : Word) (s : State) :
    (takeFault c p w s).initOk = s.initOk := rfl

@[simp] theorem takeFault_inbox (c : Cause) (p : Port) (w : Word) (s : State) :
    (takeFault c p w s).inbox = s.inbox := rfl

@[simp] theorem takeFault_cap (c : Cause) (p : Port) (w : Word) (s : State) :
    (takeFault c p w s).cap = s.cap := rfl

@[simp] theorem takeFault_edgeSel (c : Cause) (p : Port) (w : Word) (s : State) :
    (takeFault c p w s).edgeSel = s.edgeSel := rfl

@[simp] theorem takeFault_sample (c : Cause) (p : Port) (w : Word) (s : State) :
    (takeFault c p w s).sample = s.sample := rfl

@[simp] theorem takeFault_win (c : Cause) (p : Port) (w : Word) (s : State) :
    (takeFault c p w s).win = s.win := rfl

@[simp] theorem takeFault_lastAppliedDuty (c : Cause) (p : Port) (w : Word) (s : State) :
    (takeFault c p w s).lastAppliedDuty = s.lastAppliedDuty := rfl

@[simp] theorem takeFault_outputEnabled (c : Cause) (p : Port) (w : Word) (s : State) :
    (takeFault c p w s).outputEnabled = s.outputEnabled := rfl

@[simp] theorem takeFault_ticksSinceLastUpdate (c : Cause) (p : Port) (w : Word) (s : State) :
    (takeFault c p w s).ticksSinceLastUpdate = s.ticksSinceLastUpdate := rfl

@[simp] theorem takeFault_ticksSinceLastSend (c : Cause) (p : Port) (w : Word) (s : State) :
    (takeFault c p w s).ticksSinceLastSend = s.ticksSinceLastSend := rfl

@[simp] theorem takeFault_q (c : Cause) (p : Port) (w : Word) (s : State) :
    (takeFault c p w s).q = s.q := rfl

@[simp] theorem takeFault_fault (c : Cause) (p : Port) (w : Word) (s : State) :
    (takeFault c p w s).fault = true := rfl

@[simp] theorem takeFault_selectOut (c : Cause) (p : Port) (w : Word) (s : State) :
    (takeFault c p w s).selectOut = s.selectOut := rfl

@[simp] theorem takeFault_textOut (c : Cause) (p : Port) (w : Word) (s : State) :
    (takeFault c p w s).textOut = s.textOut := rfl

@[simp] theorem takeFault_respOut (c : Cause) (p : Port) (w : Word) (s : State) :
    (takeFault c p w s).respOut = s.respOut ++ [⟨p, .fault c w⟩] := rfl

/-! ## tickCounters -/

@[simp] theorem tickCounters_cfg (s : State) :
    (tickCounters s).cfg = s.cfg := rfl

@[simp] theorem tickCounters_initOk (s : State) :
    (tickCounters s).initOk = s.initOk := rfl

@[simp] theorem tickCounters_inbox (s : State) :
    (tickCounters s).inbox = s.inbox := rfl

@[simp] theorem tickCounters_cap (s : State) :
    (tickCounters s).cap = s.cap := rfl

@[simp] theorem tickCounters_edgeSel (s : State) :
    (tickCounters s).edgeSel = s.edgeSel := rfl

@[simp] theorem tickCounters_sample (s : State) :
    (tickCounters s).sample = s.sample := rfl

@[simp] theorem tickCounters_win (s : State) :
    (tickCounters s).win = s.win := rfl

@[simp] theorem tickCounters_lastAppliedDuty (s : State) :
    (tickCounters s).lastAppliedDuty = s.lastAppliedDuty := rfl

@[simp] theorem tickCounters_outputEnabled (s : State) :
    (tickCounters s).outputEnabled = s.outputEnabled := rfl

@[simp] theorem tickCounters_ticksSinceLastUpdate (s : State) :
    (tickCounters s).ticksSinceLastUpdate = satinc s.ticksSinceLastUpdate s.cfg.maxTicksBetweenUpdate := rfl

@[simp] theorem tickCounters_ticksSinceLastSend (s : State) :
    (tickCounters s).ticksSinceLastSend = satinc s.ticksSinceLastSend s.cfg.minTicksBetweenSend := rfl

@[simp] theorem tickCounters_q (s : State) :
    (tickCounters s).q = s.q := rfl

@[simp] theorem tickCounters_fault (s : State) :
    (tickCounters s).fault = s.fault := rfl

@[simp] theorem tickCounters_selectOut (s : State) :
    (tickCounters s).selectOut = s.selectOut := rfl

@[simp] theorem tickCounters_textOut (s : State) :
    (tickCounters s).textOut = s.textOut := rfl

@[simp] theorem tickCounters_respOut (s : State) :
    (tickCounters s).respOut = s.respOut := rfl

/-! ## powerOnReset -/

@[simp] theorem powerOnReset_cfg (ok : Bool) (s : State) :
    (powerOnReset ok s).cfg = s.cfg := rfl

@[simp] theorem powerOnReset_initOk (ok : Bool) (s : State) :
    (powerOnReset ok s).initOk = ok := rfl

@[simp] theorem powerOnReset_inbox (ok : Bool) (s : State) :
    (powerOnReset ok s).inbox = s.inbox := rfl

@[simp] theorem powerOnReset_cap (ok : Bool) (s : State) :
    (powerOnReset ok s).cap = .awaitingRisingEdge := rfl

@[simp] theorem powerOnReset_edgeSel (ok : Bool) (s : State) :
    (powerOnReset ok s).edgeSel = .rising := rfl

@[simp] theorem powerOnReset_sample (ok : Bool) (s : State) :
    (powerOnReset ok s).sample = 0 := rfl

@[simp] theorem powerOnReset_win (ok : Bool) (s : State) :
    (powerOnReset ok s).win = Window.empty s.cfg.n := rfl

@[simp] theorem powerOnReset_lastAppliedDuty (ok : Bool) (s : State) :
    (powerOnReset ok s).lastAppliedDuty = 0 := rfl

@[simp] theorem powerOnReset_outputEnabled (ok : Bool) (s : State) :
    (powerOnReset ok s).outputEnabled = false := rfl

@[simp] theorem powerOnReset_ticksSinceLastUpdate (ok : Bool) (s : State) :
    (powerOnReset ok s).ticksSinceLastUpdate = 0 := rfl

@[simp] theorem powerOnReset_ticksSinceLastSend (ok : Bool) (s : State) :
    (powerOnReset ok s).ticksSinceLastSend = 0 := rfl

@[simp] theorem powerOnReset_q (ok : Bool) (s : State) :
    (powerOnReset ok s).q = CommandQueue.empty s.cfg.qCap := rfl

@[simp] theorem powerOnReset_fault (ok : Bool) (s : State) :
    (powerOnReset ok s).fault = false := rfl

@[simp] theorem powerOnReset_selectOut (ok : Bool) (s : State) :
    (powerOnReset ok s).selectOut = s.selectOut := rfl

@[simp] theorem powerOnReset_textOut (ok : Bool) (s : State) :
    (powerOnReset ok s).textOut = s.textOut := rfl

@[simp] theorem powerOnReset_respOut (ok : Bool) (s : State) :
    (powerOnReset ok s).respOut = s.respOut := rfl

/-! ## resetWith -/

@[simp] theorem resetWith_cfg (c : Config) :
    (State.resetWith c).cfg = c := rfl

@[simp] theorem resetWith_initOk (c : Config) :
    (State.resetWith c).initOk = true := rfl

@[simp] theorem resetWith_inbox (c : Config) :
    (State.resetWith c).inbox = [] := rfl

@[simp] theorem resetWith_cap (c : Config) :
    (State.resetWith c).cap = .awaitingRisingEdge := rfl

@[simp] theorem resetWith_edgeSel (c : Config) :
    (State.resetWith c).edgeSel = .rising := rfl

@[simp] theorem resetWith_sample (c : Config) :
    (State.resetWith c).sample = 0 := rfl

@[simp] theorem resetWith_win (c : Config) :
    (State.resetWith c).win = Window.empty c.n := rfl

@[simp] theorem resetWith_lastAppliedDuty (c : Config) :
    (State.resetWith c).lastAppliedDuty = 0 := rfl

@[simp] theorem resetWith_outputEnabled (c : Config) :
    (State.resetWith c).outputEnabled = false := rfl

@[simp] theorem resetWith_ticksSinceLastUpdate (c : Config) :
    (State.resetWith c).ticksSinceLastUpdate = 0 := rfl

@[simp] theorem resetWith_ticksSinceLastSend (c : Config) :
    (State.resetWith c).ticksSinceLastSend = 0 := rfl

@[simp] theorem resetWith_q (c : Config) :
    (State.resetWith c).q = CommandQueue.empty c.qCap := rfl

@[simp] theorem resetWith_fault (c : Config) :
    (State.resetWith c).fault = false := rfl

@[simp] theorem resetWith_selectOut (c : Config) :
    (State.resetWith c).selectOut = [] := rfl

@[simp] theorem resetWith_textOut (c : Config) :
    (State.resetWith c).textOut = [] := rfl

@[simp] theorem resetWith_respOut (c : Config) :
    (State.resetWith c).respOut = [] := rfl

end Sys2Proof.Machine
end

