-- ==== Sys2Proof/Laws/Window.lean ====
section
/-! SUPPORT. What the window's push does: it keeps the invariant, and over the samples held it is a list that keeps its
last N entries. -/

namespace Sys2Proof.Machine

@[simp] theorem recent_length (n : Nat) (w : Window) : (w.recent n).length = w.count := by
  simp [Window.recent]

theorem recent_getElem {n : Nat} {w : Window} {k : Nat} (h : k < (w.recent n).length) :
    (w.recent n)[k] = w.slots.getD ((w.head + (n - w.count) + k) % n) 0 := by
  simp [Window.recent]

/-- A full window holds its slots from `head` on, around the ring. -/
theorem recent_full {n : Nat} {w : Window} (hw : WindowOk n w) (h : w.count = n) :
    w.recent n = w.slots.rotate w.head := by
  obtain ⟨hl, hh, -, -, -⟩ := hw
  refine List.ext_getElem (by simp [hl, h]) fun k h1 h2 => ?_
  rw [recent_getElem, List.getElem_rotate, List.getD_eq_getElem _ _ (by rw [hl]; exact Nat.mod_lt _ (by omega))]
  simp [hl, h, Nat.add_comm]

/-- A window that is not full holds its first `count` slots. -/
theorem recent_partial {n : Nat} {w : Window} (hw : WindowOk n w) (h : w.count < n) :
    w.recent n = w.slots.take w.count := by
  obtain ⟨hl, hh, -, -, hp⟩ := hw
  refine List.ext_getElem (by simp [hl]; omega) fun k h1 h2 => ?_
  have hk : k < w.count := by simpa using h1
  rw [recent_getElem, (hp h).1, show w.count + (n - w.count) + k = k + n by omega, Nat.add_mod_right,
    Nat.mod_eq_of_lt (by omega), List.getD_eq_getElem _ _ (by omega), List.getElem_take]

theorem sum_map_set (l : List DutySample) (i : Nat) (d : DutySample) (h : i < l.length) :
    ((l.set i d).map fun x => x.val).sum + (l.getD i 0).val = (l.map fun x => x.val).sum + d.val := by
  induction l generalizing i with
  | nil => simp at h
  | cons a l ih =>
    cases i with
    | zero => simp; omega
    | succ i =>
      have := ih i (by simpa using h)
      simp at this ⊢; omega

theorem le_sum_map (l : List DutySample) (i : Nat) (h : i < l.length) :
    (l.getD i 0).val ≤ (l.map fun x => x.val).sum := by
  induction l generalizing i with
  | nil => simp at h
  | cons a l ih =>
    cases i with
    | zero => simp
    | succ i =>
      have := ih i (by simpa using h)
      simp at this ⊢; omega

/-- The evicted sample is the value of the slot a push overwrites, full window or not. -/
theorem evicted_eq {n : Nat} {w : Window} (hw : WindowOk n w) :
    w.evicted n = (w.slots.getD w.head 0).val := by
  obtain ⟨hl, hh, hc, hs, hp⟩ := hw
  unfold Window.evicted
  split
  · rfl
  · obtain ⟨h1, h2⟩ := hp (by omega)
    rw [h2 w.head hh (by omega)]; rfl

/-- PUSH keeps the window's invariant. -/
theorem push_ok {n : Nat} {w : Window} (d : DutySample) (hw : WindowOk n w) : WindowOk n (w.push n d) := by
  have he := evicted_eq hw
  obtain ⟨hl, hh, hc, hs, hp⟩ := hw
  have h1 := sum_map_set w.slots w.head d (by omega)
  have h2 := le_sum_map w.slots w.head (by omega)
  refine ⟨by simp [Window.push, hl], Nat.mod_lt _ (by omega), by simp [Window.push], ?_, ?_⟩
  · simp only [Window.push, he, hs]; omega
  · intro h
    have hlt : w.count + 1 < n := by simp [Window.push] at h; omega
    obtain ⟨h3, h4⟩ := hp (by omega)
    refine ⟨?_, fun i hi hk => ?_⟩
    · simp only [Window.push]; rw [h3, Nat.mod_eq_of_lt hlt]; omega
    · simp only [Window.push] at hk ⊢
      have := h4 i hi (by omega)
      rw [List.getD_eq_getElem?_getD] at this ⊢
      rw [List.getElem?_set_ne (by omega)]; exact this

/-- PUSH keeps the newest `n` of the samples held and the new one, in order. -/
theorem recent_push {n : Nat} {w : Window} (d : DutySample) (hw : WindowOk n w) :
    (w.push n d).recent n = lastN n (w.recent n ++ [d]) := by
  obtain ⟨hl, hh, hc, hs, hp⟩ := hw
  by_cases hfull : w.count = n
  · rw [lastN_full d (by simp [hfull]) (by omega)]
    refine List.ext_getElem (by simp [Window.push]; omega) fun k h1 h2 => ?_
    have hk : k < n := by simp [Window.push] at h1; omega
    have hi : w.head + 1 + k = w.head + (k + 1) := by omega
    have hcount : min (n + 1) n = n := by omega
    rw [recent_getElem, List.getElem_append]
    simp only [Window.push, hcount, Nat.sub_self, Nat.add_zero, recent_length, List.length_tail,
      Nat.mod_add_mod, List.getD_eq_getElem?_getD, List.getElem?_set, hl, hi, hfull]
    by_cases hlt : k < n - 1
    · have hw : (w.head + (k + 1)) % n = _ := wrap_index hh (by omega)
      rw [dif_pos hlt, List.getElem_tail, recent_getElem, List.getD_eq_getElem?_getD, hfull, Nat.sub_self,
        if_neg (by rw [hw]; split <;> omega), Nat.add_zero w.head]
    · obtain rfl : k = n - 1 := by omega
      rw [dif_neg hlt, Nat.sub_add_cancel (by omega), Nat.add_mod_right, Nat.mod_eq_of_lt hh, if_pos rfl, if_pos hh]
      simp
  · have hlt : w.count < n := by omega
    obtain ⟨h3, h4⟩ := hp hlt
    rw [lastN_of_le (by simp; omega)]
    refine List.ext_getElem (by simp [Window.push]; omega) fun k h1 h2 => ?_
    have hk : k ≤ w.count := by simp at h2; omega
    have hcount : min (w.count + 1) n = w.count + 1 := by omega
    have hidx : ((w.head + 1) % n + (n - (w.count + 1)) + k) % n = k := by
      rw [h3, Nat.add_assoc, Nat.mod_add_mod, show w.count + 1 + (n - (w.count + 1) + k) = k + n by omega,
        Nat.add_mod_right, Nat.mod_eq_of_lt (by omega)]
    rw [recent_getElem, List.getElem_append]
    simp only [Window.push, hcount, hidx, List.getD_eq_getElem?_getD, List.getElem?_set, hl, recent_length]
    by_cases hkc : k < w.count
    · rw [dif_pos hkc, if_neg (by omega), recent_getElem, h3,
        show w.count + (n - w.count) + k = k + n by omega, Nat.add_mod_right, Nat.mod_eq_of_lt (by omega),
        List.getD_eq_getElem?_getD]
    · rw [dif_neg hkc, if_pos (by omega), if_pos (by omega)]
      simp

/-- The running sum is the sum of the samples held. -/
theorem sum_recent {n : Nat} {w : Window} (hw : WindowOk n w) :
    w.sum = ((w.recent n).map fun d => d.val).sum := by
  have hs := hw.2.2.2.1
  by_cases h : w.count = n
  · rw [recent_full hw h, hs]
    exact ((List.rotate_perm _ _).map _).sum_eq.symm
  · have hlt : w.count < n := by have := hw.2.2.1; omega
    rw [recent_partial hw hlt, hs]
    obtain ⟨hl, hh, hc, -, hp⟩ := hw
    conv_lhs => rw [← List.take_append_drop w.count w.slots, List.map_append, List.sum_append]
    have : ((w.slots.drop w.count).map fun d => d.val).sum = 0 := by
      rw [List.sum_eq_zero_iff]
      intro x hx
      obtain ⟨y, hy, rfl⟩ := List.mem_map.mp hx
      obtain ⟨j, hj, rfl⟩ := List.mem_iff_getElem.mp hy
      rw [List.length_drop] at hj
      have := (hp hlt).2 (w.count + j) (by omega) (by omega)
      rw [List.getD_eq_getElem _ _ (by omega)] at this
      rw [List.getElem_drop, this]; rfl
    omega

/-- The stability gate over the samples held: a full window of one value. -/
theorem allSame_recent {n : Nat} {w : Window} (hw : WindowOk n w) :
    w.allSame n = true ↔ (w.recent n).length = n ∧ ∀ d ∈ w.recent n, ∀ e ∈ w.recent n, d = e := by
  obtain ⟨hl, hh, hc, hs, hp⟩ := id hw
  simp only [Window.allSame, Bool.and_eq_true, beq_iff_eq, List.all_eq_true, List.mem_range, recent_length]
  refine and_congr_right fun hfull => ?_
  rw [recent_full hw hfull]
  simp only [List.mem_rotate]
  constructor
  · intro h d hd e he
    obtain ⟨i, hi, rfl⟩ := List.mem_iff_getElem.mp hd
    obtain ⟨j, hj, rfl⟩ := List.mem_iff_getElem.mp he
    rw [← List.getD_eq_getElem _ 0 hi, ← List.getD_eq_getElem _ 0 hj, h i (by omega), h j (by omega)]
  · intro h i hi
    rw [List.getD_eq_getElem _ _ (by omega), List.getD_eq_getElem _ _ (by omega)]
    exact h _ (List.getElem_mem _) _ (List.getElem_mem _)

theorem windowEmpty_ok {n : Nat} (h : 1 ≤ n) : WindowOk n (Window.empty n) := by
  refine ⟨by simp [Window.empty], h, Nat.zero_le _, by simp [Window.empty], fun _ => ⟨rfl, fun i hi _ => ?_⟩⟩
  simp [Window.empty, hi]

/-- The average of the samples held is a percent. -/
theorem sum_le_percent (l : List DutySample) : (l.map fun d => d.val).sum ≤ 100 * l.length := by
  induction l with
  | nil => simp
  | cons a l ih => have := a.isLt; simp; omega
end Sys2Proof.Machine
end

