-- ==== Sys2Proof/Laws/Ops.lean ====
section
/-! SUPPORT. One spec lemma for each shared operation: what it can do, said once. -/

namespace Sys2Proof.Machine

/-! ## Arithmetic and operands -/

@[simp] theorem toDuty_val (v : Nat) : (toDuty v).val = min v 100 := by simp [toDuty, clamp]

theorem satinc_le (c top : Nat) : satinc c top ≤ top := Nat.min_le_right _ _

theorem wsub16_toNat (a b : BitVec 16) : (wsub16 a b).toNat = (a.toNat + 65536 - b.toNat) % 65536 := by
  rw [wsub16, BitVec.toNat_sub]; congr 1; omega

/-- A raw count that FX can hold reads back as itself (R101). -/
theorem fxOfNat_toInt {n : Nat} (h : n < 2147483648) : (fxOfNat n).toInt = n := by
  have h1 : (fxOfNat n).toNat = n := by simp only [fxOfNat, BitVec.toNat_ofNat]; omega
  rw [BitVec.toInt_eq_toNat_of_lt (by omega), h1]

/-- PUSH's operand is a sample exactly when it is at most 100. -/
theorem sampleOperand_eq_some {b : BitVec 7} {d : DutySample} : sampleOperand b = some d ↔ d.val = b.toNat := by
  unfold sampleOperand
  split
  · simp only [Option.some.injEq, Fin.ext_iff]; exact eq_comm
  · have := d.isLt; simp; omega

theorem sampleOperand_eq_none {b : BitVec 7} : sampleOperand b = none ↔ 100 < b.toNat := by
  unfold sampleOperand
  split <;> simp <;> omega

/-- A command operand is the command of that tag and payload. -/
theorem commandOperand_eq_some {tag : BitVec 2} {val : Fx} {c : PsuCommand} :
    commandOperand tag val = some c ↔ c.tag = tag ∧ c.val = val := by
  have ht : tag = 0#2 ∨ tag = 1#2 ∨ tag = 2#2 ∨ tag = 3#2 := by revert tag; decide
  rcases ht with rfl | rfl | rfl | rfl <;> cases c <;> simp [commandOperand, PsuCommand.tag, PsuCommand.val] <;>
    exact eq_comm

theorem commandOperand_eq_none {tag : BitVec 2} {val : Fx} :
    commandOperand tag val = none ↔ commandFieldsOk tag val = false := by
  have ht : tag = 0#2 ∨ tag = 1#2 ∨ tag = 2#2 ∨ tag = 3#2 := by revert tag; decide
  rcases ht with rfl | rfl | rfl | rfl <;> simp [commandOperand, commandFieldsOk]

/-! ## The queue from a state, and batches -/

theorem enqueueBatch_eq (batch : List PsuCommand) (s : State) :
    enqueueBatch batch s = { s with q := batch.foldl (fun q c => q.enqueue s.cfg.qCap c) s.q } := by
  induction batch generalizing s with
  | nil => rfl
  | cons c batch ih => exact ih (enqueueCommand c s)

theorem foldl_enqueue_ok {cap : Nat} (batch : List PsuCommand) {q : CommandQueue} (hq : QueueOk cap q) :
    QueueOk cap (batch.foldl (fun q c => q.enqueue cap c) q) := by
  induction batch generalizing q with
  | nil => exact hq
  | cons c batch ih => exact ih (enqueue_ok c hq)

/-- Enqueuing a batch keeps the newest `cap` of the entries and the batch, in order. -/
theorem contents_foldl_enqueue {cap : Nat} (batch : List PsuCommand) {q : CommandQueue} (hq : QueueOk cap q) :
    (batch.foldl (fun q c => q.enqueue cap c) q).contents cap = lastN cap (q.contents cap ++ batch) := by
  induction batch generalizing q with
  | nil => rw [List.append_nil, lastN_of_le (by simpa using hq.2.2)]; rfl
  | cons c batch ih =>
    rw [List.foldl_cons, ih (enqueue_ok c hq), contents_enqueue c hq, lastN_lastN_append, List.append_assoc]
    rfl

/-- What building and committing a batch writes: the flag, the queue, the applied duty and the update counter. -/
theorem commitBatch_eq (duty : DutySample) (s : State) :
    commitBatch duty s = { s with
      outputEnabled := outputEnabledFor duty
      q := (buildBatch s.cfg s.outputEnabled duty).foldl (fun q c => q.enqueue s.cfg.qCap c) s.q
      lastAppliedDuty := duty
      ticksSinceLastUpdate := 0 } := by
  simp only [commitBatch, enqueueBatch_eq]

theorem writeSample_eq (d : Option DutySample) (s : State) :
    writeSample d s = { s with sample := d.getD s.sample } := by
  cases d <;> rfl

/-! ## The stages of a tick -/

theorem tickDecide_acts {sample : DutySample} {s : State}
    (h : (actCondition (policyDuty sample s) s && spaceGate s) = true) :
    tickDecide sample s = commitBatch (policyDuty sample s) s := if_pos h

theorem tickDecide_waits {sample : DutySample} {s : State}
    (h : (actCondition (policyDuty sample s) s && spaceGate s) = false) :
    tickDecide sample s = s := if_neg (by simp [h])

/-- The decide stage writes only the flag, the queue, the applied duty and the update counter. -/
theorem tickDecide_frame (sample : DutySample) (s : State) :
    tickDecide sample s = { s with
      outputEnabled := (tickDecide sample s).outputEnabled
      q := (tickDecide sample s).q
      lastAppliedDuty := (tickDecide sample s).lastAppliedDuty
      ticksSinceLastUpdate := (tickDecide sample s).ticksSinceLastUpdate } := by
  unfold tickDecide
  split
  · rw [commitBatch_eq]
  · rfl

/-- The send stage sends nothing, or takes the oldest command out, emits its text and clears the send counter. -/
theorem tickSend_cases (s : State) :
    (sendGate s = false ∧ tickSend s = s) ∨
    ∃ c q', sendGate s = true ∧ s.q.dequeue s.cfg.qCap = some (c, q') ∧
      tickSend s = { s with q := q', textOut := s.textOut ++ [serialize c], ticksSinceLastSend := 0 } := by
  unfold tickSend
  cases hg : sendGate s with
  | false => exact .inl ⟨rfl, by simp⟩
  | true =>
    right
    have hc : s.q.count ≠ 0 := by simp [sendGate] at hg; omega
    refine ⟨s.q.ring.getD s.q.head .outputOn, { s.q with head := (s.q.head + 1) % s.cfg.qCap, count := s.q.count - 1 }, rfl, ?_, ?_⟩
    · simp [CommandQueue.dequeue, hc]
    · simp [CommandQueue.dequeue, hc, emit]

/-- The send gate as a condition on the two numbers it reads. -/
theorem sendGate_eq_true {s : State} :
    sendGate s = true ↔ s.cfg.minTicksBetweenSend ≤ s.ticksSinceLastSend ∧ 0 < s.q.count := by
  simp [sendGate]

/-- A tick is its send stage on its decide stage, on the state that the decide stage sees. -/
theorem tickStages_eq (s : State) :
    tickStages s = tickSend (if actsAt s then commitBatch (dutyAtTick s) (atDecision s) else atDecision s) := rfl

/-- What a tick leaves alone, whatever its stages do. -/
theorem tickStages_frame (s : State) :
    (tickStages s).cfg = s.cfg ∧ (tickStages s).initOk = s.initOk ∧ (tickStages s).inbox = s.inbox ∧
    (tickStages s).cap = s.cap ∧ (tickStages s).edgeSel = s.edgeSel ∧ (tickStages s).sample = s.sample ∧
    (tickStages s).win = s.win.push s.cfg.n s.sample ∧ (tickStages s).fault = s.fault ∧
    (tickStages s).selectOut = s.selectOut ∧ (tickStages s).respOut = s.respOut := by
  unfold tickStages
  rcases tickSend_cases (tickDecide (snapshot s) (pushSample (snapshot s) (tickCounters s))) with ⟨-, h⟩ | ⟨c, q', -, -, h⟩ <;>
    rw [h, tickDecide_frame] <;> simp [snapshot]

/-! ## One step -/

theorem step_halted {s : State} (h : s.initOk = false) : step s = .fault .initFailed := by simp [step, h]

theorem step_idle {s : State} (h : s.initOk = true) (hi : s.inbox = []) : step s = .next s := by
  simp [step, h, fetch, hi]

theorem step_deliver {s : State} {i : Input} {rest : List Input} (h : s.initOk = true) (hi : s.inbox = i :: rest) :
    step s = deliver i { s with inbox := rest } := by
  simp [step, h, fetch, hi]

/-- Everything a step that answers a next state can have done: nothing, power-on, a fault taken, or one operation
run. -/
theorem step_cases {s t : State} (h : step s = .next t) :
    s.initOk = true ∧
    ((s.inbox = [] ∧ t = s) ∨
     (∃ ok rest, s.inbox = .powerOn ok :: rest ∧ t = powerOnReset ok { s with inbox := rest }) ∨
     (∃ p w rest c, s.inbox = .op p w :: rest ∧ decodeOn p w = .error c ∧
        t = takeFault c p w { s with inbox := rest }) ∨
     (∃ p w rest i, s.inbox = .op p w :: rest ∧ decodeOn p w = .ok i ∧
        exec i { s with inbox := rest } = .next t)) := by
  by_cases h0 : s.initOk = true
  · refine ⟨h0, ?_⟩
    cases hi : s.inbox with
    | nil => rw [step_idle h0 hi] at h; cases h; exact .inl ⟨rfl, rfl⟩
    | cons x rest =>
      rw [step_deliver h0 hi] at h
      cases x with
      | powerOn ok => cases h; exact .inr (.inl ⟨ok, rest, rfl, rfl⟩)
      | op p w =>
        simp only [deliver] at h
        cases hd : decodeOn p w with
        | error c => rw [hd] at h; cases h; exact .inr (.inr (.inl ⟨p, w, rest, c, rfl, hd, rfl⟩))
        | ok i => rw [hd] at h; exact .inr (.inr (.inr ⟨p, w, rest, i, rfl, hd, h⟩))
  · rw [step_halted (by simpa using h0)] at h; cases h

end Sys2Proof.Machine
end

