-- ==== Sys2Proof/Laws/PerInstr.lean ====
section
/-! SUPPORT. Families of statements about an operation as syntax, one lemma per constructor of Instr. -/

namespace Sys2Proof.Laws

/-- The encoded word of an operation carries its opcode of 30_encoding.md R91 and a zero `RSV`, and its operand
fields read back as the operation. -/
def EncodedFields.Statement (i : Instr) : Prop :=
  opcField (encode i) = i.opcode.code ∧ rsvField (encode i) = 0#22 ∧ operandsOf i.opcode (encode i) = i

theorem EncodedFields.capture (ts : Timestamp) : EncodedFields.Statement (.capture ts) := by
  refine ⟨?_, ?_, ?_⟩ <;> simp [encode, Instr.opcode, Opcode.code, operandsOf, (captureVal_fields ts).2]

theorem EncodedFields.push (sample : BitVec 7) : EncodedFields.Statement (.push sample) := by
  refine ⟨?_, ?_, ?_⟩ <;> simp [encode, Instr.opcode, Opcode.code, operandsOf, (pushVal_fields sample).2]

theorem EncodedFields.avg : EncodedFields.Statement (.avg) := by
  refine ⟨?_, ?_, ?_⟩ <;> simp [encode, Instr.opcode, Opcode.code, operandsOf]

theorem EncodedFields.allsame : EncodedFields.Statement (.allsame) := by
  refine ⟨?_, ?_, ?_⟩ <;> simp [encode, Instr.opcode, Opcode.code, operandsOf]

theorem EncodedFields.sum : EncodedFields.Statement (.sum) := by
  refine ⟨?_, ?_, ?_⟩ <;> simp [encode, Instr.opcode, Opcode.code, operandsOf]

theorem EncodedFields.count : EncodedFields.Statement (.count) := by
  refine ⟨?_, ?_, ?_⟩ <;> simp [encode, Instr.opcode, Opcode.code, operandsOf]

theorem EncodedFields.tick : EncodedFields.Statement (.tick) := by
  refine ⟨?_, ?_, ?_⟩ <;> simp [encode, Instr.opcode, Opcode.code, operandsOf]

theorem EncodedFields.snap : EncodedFields.Statement (.snap) := by
  refine ⟨?_, ?_, ?_⟩ <;> simp [encode, Instr.opcode, Opcode.code, operandsOf]

theorem EncodedFields.enq (tag : BitVec 2) (val : Fx) : EncodedFields.Statement (.enq tag val) := by
  refine ⟨?_, ?_, ?_⟩ <;> simp [encode, Instr.opcode, Opcode.code, operandsOf]

theorem EncodedFields.deq : EncodedFields.Statement (.deq) := by
  refine ⟨?_, ?_, ?_⟩ <;> simp [encode, Instr.opcode, Opcode.code, operandsOf]

theorem EncodedFields.space : EncodedFields.Statement (.space) := by
  refine ⟨?_, ?_, ?_⟩ <;> simp [encode, Instr.opcode, Opcode.code, operandsOf]

theorem EncodedFields.len : EncodedFields.Statement (.len) := by
  refine ⟨?_, ?_, ?_⟩ <;> simp [encode, Instr.opcode, Opcode.code, operandsOf]

theorem EncodedFields.isfull : EncodedFields.Statement (.isfull) := by
  refine ⟨?_, ?_, ?_⟩ <;> simp [encode, Instr.opcode, Opcode.code, operandsOf]

theorem EncodedFields.isempty : EncodedFields.Statement (.isempty) := by
  refine ⟨?_, ?_, ?_⟩ <;> simp [encode, Instr.opcode, Opcode.code, operandsOf]

theorem EncodedFields.fmt (val : Fx) : EncodedFields.Statement (.fmt val) := by
  refine ⟨?_, ?_, ?_⟩ <;> simp [encode, Instr.opcode, Opcode.code, operandsOf]

theorem EncodedFields.ser (tag : BitVec 2) (val : Fx) : EncodedFields.Statement (.ser tag val) := by
  refine ⟨?_, ?_, ?_⟩ <;> simp [encode, Instr.opcode, Opcode.code, operandsOf]

end Sys2Proof.Laws
end

