-- ==== Sys2Proof/Laws/WireText.lean ====
section
/-! SUPPORT. What the decimal text of a number is (00_scope.md R14). -/

namespace Sys2Proof.Machine

theorem digitChar_toNat {d : Nat} (h : d < 10) : (digitChar d).toNat = 48 + d := by
  simp [digitChar]; omega

theorem digitsValue_append (t : Text) (b : Byte) :
    digitsValue (t ++ [b]) = digitsValue t * 10 + (b.toNat - 48) := by
  simp [digitsValue]

/-- With fuel above the number, the digits are the number's. -/
theorem decDigits_value (fuel n : Nat) (h : n < fuel) : digitsValue (decDigits fuel n) = n := by
  induction fuel generalizing n with
  | zero => omega
  | succ k ih =>
    unfold decDigits
    split
    · simp [digitsValue, digitChar_toNat ‹_›]
    · rw [digitsValue_append, ih _ (by omega), digitChar_toNat (Nat.mod_lt _ (by decide))]; omega

theorem decDigits_allDigits (fuel n : Nat) : allDigits (decDigits fuel n) = true := by
  induction fuel generalizing n with
  | zero => rfl
  | succ k ih =>
    have hd : ∀ d, d < 10 → allDigits [digitChar d] = true := by decide
    unfold decDigits
    split
    · exact hd n ‹_›
    · have := ih (n / 10)
      have h2 := hd (n % 10) (Nat.mod_lt _ (by decide))
      simp only [allDigits, List.all_append, Bool.and_eq_true] at this h2 ⊢
      exact ⟨this, h2⟩

/-- Neither empty nor with a leading zero, but for the text `0` itself. -/
theorem decDigits_head (fuel n : Nat) (h : n < fuel) :
    ∃ b rest, decDigits fuel n = b :: rest ∧ (b = digitChar 0 → n = 0) := by
  induction fuel generalizing n with
  | zero => omega
  | succ k ih =>
    unfold decDigits
    split
    · refine ⟨_, _, rfl, fun hb => ?_⟩
      have := congrArg BitVec.toNat hb
      rw [digitChar_toNat ‹_›, digitChar_toNat (by decide)] at this; omega
    · obtain ⟨b, rest, hr, hb⟩ := ih (n / 10) (by omega)
      exact ⟨b, rest ++ [digitChar (n % 10)], by rw [hr]; rfl, fun h0 => by have := hb h0; omega⟩

theorem decDigits_length (fuel n k : Nat) (h : n < 10 ^ (k + 1)) : (decDigits fuel n).length ≤ k + 1 := by
  induction fuel generalizing n k with
  | zero => simp [decDigits]
  | succ f ih =>
    unfold decDigits
    split
    · simp
    · cases k with
      | zero => omega
      | succ k =>
        have := ih (n / 10) k (by rw [Nat.pow_succ] at h; omega)
        simp; omega

/-- `dec(n)` stands for `n`. -/
theorem dec_value (n : Nat) : digitsValue (dec n) = n := decDigits_value _ _ (Nat.lt_succ_self n)

/-- `dec(n)` is digits only. -/
theorem dec_allDigits (n : Nat) : allDigits (dec n) = true := decDigits_allDigits _ _

/-- `dec(n)` has at least one digit, and its first is `0` only for 0. -/
theorem dec_head (n : Nat) : ∃ b rest, dec n = b :: rest ∧ (b = digitChar 0 → n = 0) :=
  decDigits_head _ _ (Nat.lt_succ_self n)

/-- A number below `10^(k+1)` has at most `k+1` digits. -/
theorem dec_length {n k : Nat} (h : n < 10 ^ (k + 1)) : (dec n).length ≤ k + 1 := decDigits_length _ _ _ h

end Sys2Proof.Machine
end

