-- ==== Sys2Proof/Tests/Slice0.lean ====
section
/-! SUPPORT. Tests on fixed values. Expected values come from spec/95_test_vectors.md (the section is named at each
group) or from the examples of the rules; a theorem named witness_… shows that the hypotheses of the obligation of
that name can be met, at boundary values where it has clauses. -/

namespace Sys2Proof.Tests
open Sys2Proof.Machine

/-- The block of test configuration TC after reset. -/
def blk : State := State.resetWith Config.tc

/-- TC with `N = 1` and `MIN_TICKS_BETWEEN_SEND = 1`, after reset (95, section 2.4, bands). -/
def small : State := State.resetWith { Config.tc with n := 1, minTicksBetweenSend := 1 }

/-- A block in mid run: a full window of 10, 20, 30 and three commands queued around the end of the ring. -/
def busy : State :=
  { blk with
    cap := .awaitingPeriodEnd 1000 500
    edgeSel := .rising
    sample := 50
    win := { slots := [10, 20, 30], head := 0, count := 3, sum := 60 }
    ticksSinceLastUpdate := 5
    ticksSinceLastSend := 1
    q := { ring := [.outputOff, .setCurrent 7, .outputOn, .outputOn, .setVoltage 5], head := 4, count := 3 } }

/-- `s` with one op word on a port. -/
def onPort (p : Port) (w : Word) (s : State) : State := { s with inbox := [.op p w] }

/-- The outcome is a next state with this property. -/
def nextIs (o : Host.Outcome State Fault Refusal) (p : State → Bool) : Bool :=
  match o with
  | .next t => p t
  | .fault _ => false
  | .refused _ => false

/-- The operation answers a next state, and its response is this one. -/
def answers (i : Instr) (s : State) (v : Response) : Bool :=
  nextIs (exec i s) fun t => t.respOut == s.respOut ++ [⟨i.port, v⟩]

/-! ## WellFormed refuses ill-formed operands (R94, third bullet) -/

theorem test_wf_refuses_push_above_100 : (Instr.push 101#7).wellFormed = false := by decide
theorem test_wf_refuses_payload_on_enq_on : (Instr.enq 0#2 1#32).wellFormed = false := by decide
theorem test_wf_refuses_payload_on_enq_off : (Instr.enq 1#2 1#32).wellFormed = false := by decide
theorem test_wf_refuses_payload_on_ser_off : (Instr.ser 1#2 5#32).wellFormed = false := by decide
theorem test_wf_takes_push_100 : (Instr.push 100#7).wellFormed = true := by decide

/-! ## Words of 95, section 2.1 -/

theorem test_decode_capture :
    decode 0x10000000000003E8 = .ok (.capture 1000#16) ∧ decode 0x100000000000FFFF = .ok (.capture 65535#16) := by
  decide
theorem test_decode_window :
    decode 0x2000000000000064 = .ok (.push 100#7) ∧ decode 0x2100000000000000 = .ok .avg ∧
    decode 0x2200000000000000 = .ok .allsame ∧ decode 0x2300000000000000 = .ok .sum ∧
    decode 0x2400000000000000 = .ok .count := by decide
theorem test_decode_policy :
    decode 0x3000000000000000 = .ok .tick ∧ decode 0x3100000000000000 = .ok .snap := by decide
theorem test_decode_queue :
    decode 0x40000002000007D0 = .ok (.enq 2#2 2000#32) ∧ decode 0x4000000000000000 = .ok (.enq 0#2 0#32) ∧
    decode 0x4100000000000000 = .ok .deq ∧ decode 0x4200000000000000 = .ok .space ∧
    decode 0x4300000000000000 = .ok .len ∧ decode 0x4400000000000000 = .ok .isfull ∧
    decode 0x4500000000000000 = .ok .isempty := by decide
theorem test_decode_encoder :
    decode 0x5000000080000000 = .ok (.fmt 0x80000000#32) ∧
    decode 0x51000003FFFFFFFF = .ok (.ser 3#2 0xFFFFFFFF#32) := by decide
theorem test_encode_words :
    encode (.push 50#7) = 0x2000000000000032 ∧ encode (.enq 3#2 12000#32) = 0x4000000300002EE0 ∧
    encode (.ser 2#2 2000#32) = 0x51000002000007D0 := by decide
theorem test_bytes_of_word :
    bytesOfWord 0x40000002000007D0 = [0xD0, 0x07, 0x00, 0x00, 0x02, 0x00, 0x00, 0x40] := by decide
theorem test_illegal_opcode :
    decodeOn .poll 0 = .error .illegalOpcode ∧ decodeOn .edge 0x6000000000000000 = .error .illegalOpcode := by decide
theorem test_reserved_nonzero :
    decodeOn .poll 0x3000000400000000 = .error .reservedNonzero ∧
    decodeOn .edge 0x1000000000010000 = .error .reservedNonzero ∧
    decodeOn .poll 0x1000000100000000 = .error .reservedNonzero ∧
    decodeOn .poll 0x2000000000000080 = .error .reservedNonzero ∧
    decodeOn .poll 0x5000000100000000 = .error .reservedNonzero := by decide
theorem test_bad_operand :
    decodeOn .poll 0x2000000000000065 = .error .badOperand ∧ decodeOn .edge 0x2000000000000065 = .error .badOperand ∧
    decodeOn .poll 0x4000000000000001 = .error .badOperand ∧
    decodeOn .poll 0x5100000100000005 = .error .badOperand := by decide
theorem test_wrong_port :
    decodeOn .poll 0x1000000000000000 = .error .wrongPort ∧
    decodeOn .edge 0x3000000000000000 = .error .wrongPort := by decide
theorem test_cause_codes :
    [Cause.illegalOpcode, .reservedNonzero, .badOperand, .wrongPort].map Cause.code = [1, 2, 3, 4] := by decide
theorem test_fault_changes_only_the_flag :
    nextIs (step (onPort .poll 0x2000000000000065 busy)) (fun t => t == { busy with
      fault := true, respOut := [⟨.poll, .fault .badOperand 0x2000000000000065⟩] }) = true := by decide
/-- Every row of the opcode table runs as the first operation after reset of the reference block. -/
theorem test_reset_runs_every_row :
    (opcodeTable.all fun r => nextIs (step (State.reset.withFetchWord 64 r.pattern.toNat)) fun _ => true) = true := by
  decide

/-! ## One operation each (95, sections 2.2 to 2.6) -/

theorem test_capture_25 :
    nextIs (exec (.capture 3000#16) { busy with sample := 0 }) (fun t =>
      t.sample == 25 && t.cap == .awaitingFallingEdge 3000 && t.selectOut == [.falling]) = true := by decide
theorem test_capture_width_wraps :
    nextIs (exec (.capture 200#16) { blk with cap := .awaitingFallingEdge 65500 }) (fun t =>
      t.cap == .awaitingPeriodEnd 65500 236 && t.edgeSel == .rising) = true := by decide
theorem test_push_evicts_oldest :
    nextIs (exec (.push 40#7) busy) (fun t => t.win == ⟨[40, 20, 30], 1, 3, 90⟩) = true := by decide
theorem test_push_one_slot :
    nextIs (exec (.push 8#7) { small with win := ⟨[7], 0, 1, 7⟩ }) (fun t => t.win == ⟨[8], 0, 1, 8⟩) = true := by
  decide
theorem test_avg_truncates :
    answers .avg { blk with win := ⟨[40, 40, 30], 2, 3, 110⟩ } (.optNat (some 36)) = true := by decide
theorem test_avg_empty : answers .avg blk (.optNat none) = true := by decide
theorem test_allsame_full : answers .allsame { blk with win := ⟨[40, 40, 40], 0, 3, 120⟩ } (.bool true) = true := by
  decide
theorem test_allsame_partial :
    answers .allsame { blk with win := ⟨[50, 50, 0], 2, 2, 100⟩ } (.bool false) = true := by decide
theorem test_sum : answers .sum { blk with win := ⟨[40, 20, 30], 1, 3, 90⟩ } (.nat 90) = true := by decide
theorem test_count : answers .count { blk with win := ⟨[10, 20, 0], 2, 2, 30⟩ } (.nat 2) = true := by decide
/-- The row `d = 9` of the bands table. -/
theorem test_tick_lower_band :
    nextIs (exec .tick { small with sample := 9 }) (fun t =>
      t.q.contents 5 == [.setCurrent 100, .setVoltage 12000] && t.textOut == [ascii "OUT0"] &&
      t.lastAppliedDuty == 9 && !t.outputEnabled) = true := by decide
/-- The row `d = 89` of the bands table. -/
theorem test_tick_middle_band :
    nextIs (exec .tick { small with sample := 89 }) (fun t =>
      t.q.contents 5 == [.setCurrent 3950] && t.textOut == [ascii "OUT1"] &&
      t.lastAppliedDuty == 89 && t.outputEnabled) = true := by decide
theorem test_snap : answers .snap { blk with sample := 25 } (.nat 25) = true := by decide
theorem test_enq_evicts_oldest :
    nextIs (exec (.enq 0#2 0#32) { blk with
      q := ⟨[.setCurrent 1, .setCurrent 2, .setCurrent 3, .setCurrent 4, .setCurrent 5], 0, 5⟩ }) (fun t =>
      t.q.contents 5 == [.setCurrent 2, .setCurrent 3, .setCurrent 4, .setCurrent 5, .outputOn]) = true := by decide
theorem test_deq_oldest : answers .deq busy (.optCmd (some (.setVoltage 5))) = true := by decide
theorem test_deq_empty : answers .deq blk (.optCmd none) = true := by decide
theorem test_space : answers .space busy (.nat 2) = true := by decide
theorem test_len : answers .len busy (.nat 3) = true := by decide
theorem test_isfull : answers .isfull { busy with q := { busy.q with count := 5 } } (.bool true) = true := by decide
theorem test_isempty : answers .isempty blk (.bool true) = true := by decide
/-- Depends on the sign rule of R212 (log entry 12). -/
theorem test_fmt_negative_zero : answers (.fmt 0xFFFFFFFF#32) blk (.text (ascii "-0.00")) = true := by decide
theorem test_fmt_extreme : answers (.fmt 0x80000000#32) blk (.text (ascii "-2147483.65")) = true := by decide
theorem test_ser_current : answers (.ser 2#2 2000#32) blk (.text (ascii "ISET1:2.00")) = true := by decide
theorem test_ser_off : answers (.ser 1#2 0#32) blk (.text (ascii "OUT0")) = true := by decide

/-! ## The assembler (R97; 95, section 2.1) -/

theorem test_assemble_edges :
    assembleLine "EDGES 1000, 1500, 3000 ; ticks".toList =
      some [.op .edge 0x10000000000003E8, .op .edge 0x10000000000005DC, .op .edge 0x1000000000000BB8] := by decide
theorem test_assemble_literals :
    assembleLine "ENQ ISET -0.001".toList = some [.op .poll 0x40000002FFFFFFFF] ∧
    assembleLine "FMT #-2147483648".toList = some [.op .poll 0x5000000080000000] ∧
    assembleLine "CAPTURE 0xFFFF".toList = some [.op .edge 0x100000000000FFFF] := by decide
theorem test_assemble_errors :
    assembleLine "PUSH 101".toList = none ∧ assembleLine "CAPTURE 65536".toList = none ∧
    assembleLine "FMT 1.2345".toList = none ∧ assembleLine "FMT 2147483.648".toList = none ∧
    assembleLine "ENQ ON 1".toList = none ∧ assembleLine "TICKS 0".toList = none := by decide

/-! ## Witnesses: encoding -/

theorem witness_EncodedInstructionDecodesToItself :
    (Instr.push 100#7).wellFormed = true ∧ (Instr.enq 1#2 0#32).wellFormed = true ∧
    (Instr.ser 2#2 0x80000000#32).wellFormed = true := by decide
theorem witness_DecodedWordEncodesBack : decode 0x2000000000000064 = .ok (.push 100#7) := by decide
theorem witness_FirstCauseIsReported :
    ((onPort .poll 0 blk).initOk = true ∧ (onPort .poll 0 blk).inbox = .op .poll 0 :: [] ∧
      firstCause .poll 0 = some .illegalOpcode) ∧
    firstCause .poll 0x2000000000000080 = some .reservedNonzero ∧
    firstCause .edge 0x2000000000000065 = some .badOperand ∧
    firstCause .edge 0x2000000000000064 = some .wrongPort ∧ firstCause .poll 0x2000000000000064 = none := by decide

/-! ## Witnesses: steps, faults, power-on -/

theorem witness_StepRunsDecodedInstruction :
    (onPort .edge 0x100000000000FFFF busy).initOk = true ∧
    (onPort .edge 0x100000000000FFFF busy).inbox = .op .edge 0x100000000000FFFF :: [] ∧
    decodeOn .edge 0x100000000000FFFF = .ok (.capture 65535#16) ∧ (Instr.push 100#7).wellFormed = true := by decide
theorem witness_BadOperandsTakeFault :
    100 < (101#7).toNat ∧ (0#2).toNat ≤ 1 ∧ (1#2).toNat ≤ 1 ∧ (1#32 : Fx) ≠ 0#32 := by decide
theorem witness_FaultFlagIsSticky :
    ((onPort .poll 0 blk).initOk = true ∧ (onPort .poll 0 blk).inbox = .op .poll 0 :: [] ∧
      firstCause .poll 0 = some .illegalOpcode) ∧
    (∃ t, exec .avg { busy with fault := true } = .next t) ∧
    (∃ t, step { busy with fault := true, inbox := [.powerOn true] } = .next t ∧ t.fault = false) :=
  ⟨by decide, ⟨_, rfl⟩, _, rfl, rfl⟩
theorem witness_LegalWordNeverFaults :
    (onPort .poll 0x4100000000000000 blk).initOk = true ∧
    (onPort .poll 0x4100000000000000 blk).inbox = .op .poll 0x4100000000000000 :: [] ∧
    firstCause .poll 0x4100000000000000 = none := by decide
theorem witness_EveryOpWordGetsOneResponse :
    (onPort .edge 0 busy).initOk = true ∧ (onPort .edge 0 busy).inbox = .op .edge 0 :: [] := by decide
theorem witness_IdleStepChangesNothing : busy.initOk = true ∧ busy.inbox = [] := by decide
theorem witness_FailedInitialisationHalts :
    ({ busy with initOk := false } : State).initOk = false ∧
    (let s : State := { busy with inbox := [.powerOn false] }
     s.initOk = true ∧ s.inbox = .powerOn false :: []) := by decide
theorem witness_WorkingBlockAlwaysSteps : busy.initOk = true := by decide
theorem witness_PowerOnResetsEveryElement :
    let s : State := { busy with fault := true, inbox := [.powerOn true] }
    s.initOk = true ∧ s.inbox = .powerOn true :: [] := by decide

/-! ## Witnesses: invariants -/

theorem witness_ResetMeetsInvariant :
    Config.tc.Valid ∧ ({ Config.tc with n := 1, qCap := 1, maxTicksBetweenUpdate := 1 } : Config).Valid ∧
    ({ Config.tc with n := 65535, qCap := 255, maxTicksBetweenUpdate := 65535 } : Config).Valid := by decide
theorem busy_inv : busy.Inv := by decide
theorem blk_inv : blk.Inv := by decide
theorem witness_StepKeepsInvariant :
    (onPort .poll 0x3000000000000000 busy).Inv ∧
    ∃ t, step (onPort .poll 0x3000000000000000 busy) = .next t := ⟨by decide, _, rfl⟩
theorem witness_StepKeepsEdgeAgreement :
    (onPort .edge 0x1000000000000BB8 busy).EdgeAgrees ∧
    ∃ t, step (onPort .edge 0x1000000000000BB8 busy) = .next t := ⟨by decide, _, rfl⟩
theorem witness_StepKeepsConfiguration : ∃ t, step (onPort .poll 0x3000000000000000 busy) = .next t := ⟨_, rfl⟩

/-! ## Witnesses: CAPTURE -/

theorem witness_CaptureTakesRisingEdge : blk.cap = .awaitingRisingEdge := rfl
theorem witness_CaptureMeasuresWidth :
    ({ blk with cap := .awaitingFallingEdge 65535 } : State).cap = .awaitingFallingEdge 65535 := rfl
/-- Both clauses, at the period 0 and at the periods 1 and 65535 on either side of it. -/
theorem witness_CaptureMeasuresPeriod :
    busy.cap = .awaitingPeriodEnd 1000 500 ∧ ((1000#16).toNat + 65536 - (1000#16).toNat) % 65536 = 0 ∧
    ((1001#16).toNat + 65536 - (1000#16).toNat) % 65536 = 1 ∧
    ((999#16).toNat + 65536 - (1000#16).toNat) % 65536 = 65535 := by decide
theorem witness_NoOperationReturnsToAwaitingRisingEdge :
    (∃ t, exec (.capture 0#16) blk = .next t) ∧
    (∃ t, exec .tick busy = .next t) ∧ busy.cap ≠ .awaitingRisingEdge := ⟨⟨_, rfl⟩, ⟨_, rfl⟩, by decide⟩
theorem witness_CaptureTouchesOnlyCaptureState :
    let s : State := { blk with outputEnabled := true, win := busy.win }
    blk.cap = s.cap ∧ blk.edgeSel = s.edgeSel ∧ blk.sample = s.sample ∧ blk ≠ s := by decide
theorem witness_PollOperationsKeepCaptureSide :
    Instr.tick.port = .poll ∧ ∃ t, exec .tick busy = .next t := ⟨rfl, _, rfl⟩
/-- Both ways the premise can hold: TICK beside a CAPTURE that emits nothing, and AVG beside one that emits. -/
theorem witness_CaptureCommutesWithPollOperations :
    (∃ u, exec (.capture 1000#16) busy = .next u ∧ u.sample = busy.sample) ∧
    (∃ u, exec (.capture 3000#16) busy = .next u ∧ u.sample ≠ busy.sample) ∧
    Instr.tick.port = .poll ∧ Instr.avg.port = .poll ∧ Instr.avg ≠ .tick ∧ Instr.avg ≠ .snap :=
  ⟨⟨_, rfl, by decide⟩, ⟨_, rfl, by decide⟩, rfl, rfl, by decide, by decide⟩

/-! ## Witnesses: the window -/

theorem witness_PushUpdatesWindow :
    (100 : DutySample).val = (100#7).toNat ∧ (0 : DutySample).val = (0#7).toNat ∧ 100 < (101#7).toNat := by decide
theorem witness_PushKeepsNewestSamples : busy.Inv ∧ (100#7).toNat ≤ 100 := ⟨busy_inv, by decide⟩
theorem witness_SumLawAfterPushes :
    Config.tc.Valid ∧ ∀ b ∈ [10#7, 20#7, 30#7, 100#7], b.toNat ≤ 100 := by decide
theorem witness_StabilityLawAfterPushes :
    Config.tc.Valid ∧ ∀ b ∈ [50#7, 50#7, 50#7], b.toNat ≤ 100 := by decide
theorem witness_AverageIsPercent : blk.Inv ∧ busy.Inv := ⟨blk_inv, busy_inv⟩
theorem witness_FullWindowStaysFull :
    (∃ t, exec (.push 0#7) busy = .next t) ∧ busy.win.count = busy.cfg.n ∧
    (∃ t, exec (.push 0#7) blk = .next t) ∧ blk.win.count ≤ blk.cfg.n :=
  ⟨⟨_, rfl⟩, by decide, ⟨_, rfl⟩, by decide⟩

/-! ## Witnesses: the policy -/

/-- A tick that decides and sends, and one that does neither. -/
theorem witness_TickDecidesAndSends :
    busy.Inv ∧ actsAt busy = true ∧ blk.Inv ∧ actsAt blk = false := ⟨busy_inv, by decide, blk_inv, by decide⟩
theorem witness_BatchFollowsBand :
    Config.tc.Valid ∧ (9 : DutySample).val < 10 ∧ 10 ≤ (10 : DutySample).val ∧ (10 : DutySample).val < 90 ∧
    (89 : DutySample).val < 90 ∧ 90 ≤ (90 : DutySample).val ∧ 90 ≤ (100 : DutySample).val := by decide
theorem witness_OverdueTickActs :
    busy.Inv ∧ busy.cfg.maxTicksBetweenUpdate ≤ busy.ticksSinceLastUpdate + 1 ∧
    2 ≤ busy.cfg.qCap - busy.q.count := ⟨busy_inv, by decide, by decide⟩
theorem witness_FullQueueSkipsDecision :
    let s : State := { busy with q := { busy.q with count := 4 } }
    s.Inv ∧ s.cfg.qCap - s.q.count < 2 := by decide
/-- An overdue block at duty 0 with two of five slots free. -/
def lowBand : State :=
  { busy with
    cfg := { Config.tc with minTicksBetweenSend := 4 }
    sample := 0
    win := { slots := [0, 0, 0], head := 0, count := 3, sum := 0 } }
/-- The same with an empty queue of two slots. -/
def lowBandTwo : State :=
  { State.resetWith { Config.tc with qCap := 2, minTicksBetweenSend := 4 } with ticksSinceLastUpdate := 5 }
/-- Both capacities: three slots or more, and exactly two. -/
theorem witness_LowerBandBatchEvictsOldest :
    (lowBand.Inv ∧ actsAt lowBand = true ∧ (dutyAtTick lowBand).val < 10 ∧
      lowBand.q.count + 2 = lowBand.cfg.qCap ∧
      lowBand.ticksSinceLastSend + 1 < lowBand.cfg.minTicksBetweenSend ∧ 3 ≤ lowBand.cfg.qCap) ∧
    (lowBandTwo.Inv ∧ actsAt lowBandTwo = true ∧ (dutyAtTick lowBandTwo).val < 10 ∧
      lowBandTwo.q.count + 2 = lowBandTwo.cfg.qCap ∧
      lowBandTwo.ticksSinceLastSend + 1 < lowBandTwo.cfg.minTicksBetweenSend ∧ lowBandTwo.cfg.qCap = 2) :=
  ⟨⟨by decide, by decide⟩, by decide, by decide⟩
theorem witness_OnlyTicksEmitAndAtMostOneText :
    nextIs (exec .tick busy) (fun t => t.textOut == [ascii "VSET1:0.01"]) = true ∧
    ∃ t, exec .deq busy = .next t := ⟨by decide, _, rfl⟩
theorem witness_SendsAreSpaced :
    nextIs (exec .tick busy) (fun t => t.textOut != busy.textOut) = true ∧
    (let s : State := { busy with ticksSinceLastSend := 0 }
     s.ticksSinceLastSend = 0 ∧ ticksIn [.tick, .deq] < max s.cfg.minTicksBetweenSend 1 ∧
     ticksIn [.tick, .deq] + 1 = max s.cfg.minTicksBetweenSend 1 ∧
     nextIs (runOps [.tick, .deq] s) (fun t => decide (0 < t.q.count)) = true) := by decide
/-- A run in which the policy builds `OutputOn`, then `OutputOff`, then `OutputOn`. -/
theorem witness_OutputOnIsBuiltOnceUntilOutputOff :
    (let s : State := { small with sample := 50, cap := .awaitingPeriodEnd 0 5 }
     .outputOn ∈ builtAt s ∧
     builtIn [.tick, .capture 100#16, .tick, .deq, .deq, .capture 150#16, .capture 200#16, .tick] s =
       [] ++ [.outputOn] ++ [.setCurrent 2000, .outputOff, .setCurrent 100, .setVoltage 12000] ++ [.outputOn] ++
         [.setCurrent 2000]) ∧
    (let s : State := { small with sample := 10, outputEnabled := true }
     s.outputEnabled = true ∧ actsAt s = true ∧ 10 ≤ (dutyAtTick s).val) := by decide
theorem witness_FlagFollowsLastSwitchBuilt :
    nextIs (runOps [.tick] { small with sample := 50 }) (fun t => t.outputEnabled) = true := by decide
theorem witness_HeldDutyTurnsOutputOn :
    Config.tc.Valid ∧ 2 ≤ Config.tc.qCap ∧ Config.tc.n ≤ Config.tc.maxTicksBetweenUpdate ∧
    Config.tc.currentMax = 4000 ∧ 0 < Config.tc.n := by decide

/-! ## Witnesses: the queue -/

/-- A queue with room and a full one, which evicts; the commands with and without a payload; and the fault. -/
theorem witness_EnqueueAppendsNewest :
    (busy.Inv ∧ busy.q.count ≠ busy.cfg.qCap) ∧
    (let s : State := { busy with q := { busy.q with count := 5 } }
     s.Inv ∧ s.q.count = s.cfg.qCap) ∧
    (PsuCommand.setVoltage 5).tag = 3#2 ∧ (PsuCommand.setVoltage 5).val = 5#32 ∧
    (PsuCommand.outputOff).tag = 1#2 ∧ (PsuCommand.outputOff).val = 0#32 ∧
    (1#2).toNat ≤ 1 ∧ (1#32 : Fx) ≠ 0#32 := ⟨⟨busy_inv, by decide⟩, by decide, by decide⟩
theorem witness_DequeueTakesOldest :
    blk.Inv ∧ blk.q.contents blk.cfg.qCap = [] ∧ busy.Inv ∧
    busy.q.contents busy.cfg.qCap = .setVoltage 5 :: [.outputOff, .setCurrent 7] :=
  ⟨blk_inv, by decide, busy_inv, by decide⟩
theorem witness_EnqueuesKeepNewest : busy.Inv := busy_inv
theorem witness_DequeuesReturnEntriesInOrder : busy.Inv ∧ busy.q.count = 3 := ⟨busy_inv, rfl⟩
theorem witness_SpaceAndLenAddToCapacity :
    Config.tc.Valid ∧ ∃ t, runOps [.enq 0#2 0#32, .deq] (State.resetWith Config.tc) = .next t :=
  ⟨by decide, _, rfl⟩

/-! ## Witnesses: the encoder and all operations -/

theorem witness_MiddleBandTextIsExact :
    Config.tc.Valid ∧ 10 ≤ 10 ∧ 10 < 90 ∧ 10 ≤ 89 ∧ 89 < 90 := by decide
theorem witness_QueriesWriteNothing :
    (Instr.ser 0#2 0#32).wellFormed = true ∧
    (Instr.ser 0#2 0#32).opcode ∈
      [Opcode.snap, .avg, .allsame, .sum, .count, .space, .len, .isfull, .isempty, .fmt, .ser] := by decide
theorem witness_OperationsRefineListBlock : busy.Inv := busy_inv
theorem witness_AssembledInputsAreLegal :
    assemble ["TICKS 2".toList, "ENQ OFF".toList] =
      some [.op .poll 0x3000000000000000, .op .poll 0x3000000000000000, .op .poll 0x4000000100000000] := by decide

end Sys2Proof.Tests
end

