-- ==== Sys2Proof/Proofs/Scope.lean ====
section
/-! SUPPORT. The parameters of the build (00_scope.md R8): each operation that branches keeps them on each of its
branches, so every operation does, so every step does. -/

namespace Sys2Proof.Machine

/-- On each form of the capture state CAPTURE writes only that state, the sample cell and the ports. -/
theorem execCapture_keeps_cfg {ts : Timestamp} {s t : State} (h : execCapture ts s = .next t) : t.cfg = s.cfg := by
  unfold execCapture at h
  split at h
  case h_1 => cases h; rfl
  case h_2 => cases h; rfl
  case h_3 => cases h; simp [writeSample_eq]

theorem execPush_keeps_cfg {sample : BitVec 7} {s t : State} (h : execPush sample s = .next t) : t.cfg = s.cfg := by
  unfold execPush at h
  cases hd : sampleOperand sample with
  | some d => rw [hd] at h; cases h; simp
  | none => rw [hd] at h; cases h; simp

theorem execEnq_keeps_cfg {tag : BitVec 2} {val : Fx} {s t : State} (h : execEnq tag val s = .next t) :
    t.cfg = s.cfg := by
  unfold execEnq at h
  cases hc : commandOperand tag val with
  | some c => rw [hc] at h; cases h; simp
  | none => rw [hc] at h; cases h; simp

theorem execDeq_keeps_cfg {s t : State} (h : execDeq s = .next t) : t.cfg = s.cfg := by
  unfold execDeq at h
  cases hq : s.q.dequeue s.cfg.qCap with
  | some r => rw [hq] at h; cases h; simp
  | none => rw [hq] at h; cases h; simp

theorem execSer_keeps_cfg {tag : BitVec 2} {val : Fx} {s t : State} (h : execSer tag val s = .next t) :
    t.cfg = s.cfg := by
  unfold execSer at h
  cases hc : commandOperand tag val with
  | some c => rw [hc] at h; cases h; simp
  | none => rw [hc] at h; cases h; simp

/-- No operation writes a parameter of the build (R8); those that only answer change nothing but the responses. -/
theorem exec_keeps_cfg {i : Instr} {s t : State} (h : exec i s = .next t) : t.cfg = s.cfg := by
  cases i with
  | capture ts => exact execCapture_keeps_cfg h
  | push sample => exact execPush_keeps_cfg h
  | enq tag val => exact execEnq_keeps_cfg h
  | deq => exact execDeq_keeps_cfg h
  | ser tag val => exact execSer_keeps_cfg h
  | tick =>
    obtain ⟨hcfg, -⟩ := tickStages_frame s
    cases h; exact hcfg
  | avg | allsame | sum | count | snap | space | len | isfull | isempty | fmt _ => cases h; exact respond_cfg _ _ s

/-- Settles O18, over what one step can have done: nothing, power-on, a fault taken, or one operation run. -/
theorem stepKeepsConfiguration : Obligations.StepKeepsConfiguration := by
  intro s t h
  obtain ⟨-, hidle | hpower | hfault | hop⟩ := step_cases h
  · obtain ⟨-, rfl⟩ := hidle; rfl
  · obtain ⟨ok, rest, -, rfl⟩ := hpower; exact powerOnReset_cfg ok _
  · obtain ⟨p, w, rest, c, -, -, rfl⟩ := hfault; exact takeFault_cfg c p w _
  · obtain ⟨p, w, rest, i, -, -, hexec⟩ := hop; exact (exec_keeps_cfg hexec).trans rfl

end Sys2Proof.Machine
end

section
/-! SUPPORT. What an operation can do, said once for all sixteen; and that every step keeps the invariant
(10_state.md R38 to R50). -/

namespace Sys2Proof.Machine

/-! ## What an operation can do -/

/-- The edge a capture state waits for (R35, R121 to R123). -/
def CapState.awaitedEdge (c : CapState) : EdgeSel :=
  match c with
  | .awaitingRisingEdge => .rising
  | .awaitingFallingEdge _ => .falling
  | .awaitingPeriodEnd _ _ => .rising

theorem edgeAgrees_iff (s : State) : s.EdgeAgrees ↔ s.edgeSel = s.cap.awaitedEdge := Iff.rfl

/-- The states that an operation can leave `s` in: a query only answers; BAD_OPERAND takes the fault; CAPTURE, PUSH,
ENQ, DEQ and TICK each write their own part of the state. -/
inductive OpEffect (s : State) : Instr → State → Prop
  | query (i : Instr) (v : Response) (hport : i.port = .poll) : OpEffect s i (respond .poll v s)
  | badOperand (i : Instr) (hport : i.port = .poll) (hbad : i.wellFormed = false) :
      OpEffect s i (takeFault .badOperand .poll (encode i) s)
  | capture (ts : Timestamp) (c : CapState) (d : DutySample) (v : Response) (hmoves : c ≠ .awaitingRisingEdge) :
      OpEffect s (.capture ts) (respond .edge v (requestEdge c.awaitedEdge { s with cap := c, sample := d }))
  | push (b : BitVec 7) (d : DutySample) (hd : d.val = b.toNat) :
      OpEffect s (.push b) (respond .poll .unit (pushSample d s))
  | enq (tag : BitVec 2) (val : Fx) (c : PsuCommand) (htag : c.tag = tag) (hval : c.val = val) :
      OpEffect s (.enq tag val) (respond .poll .unit (enqueueCommand c s))
  | deq (c : PsuCommand) (q : CommandQueue) (hq : s.q.dequeue s.cfg.qCap = some (c, q)) :
      OpEffect s .deq (respond .poll (.optCmd (some c)) { s with q := q })
  | tick : OpEffect s .tick (respond .poll .unit (tickStages s))

theorem execCapture_effect (ts : Timestamp) (s : State) :
    ∃ t, execCapture ts s = .next t ∧ OpEffect s (.capture ts) t := by
  unfold execCapture
  split
  case h_1 => exact ⟨_, rfl, .capture ts (.awaitingFallingEdge ts) s.sample _ nofun⟩
  case h_2 r _ => exact ⟨_, rfl, .capture ts (.awaitingPeriodEnd r (wsub16 ts r)) s.sample _ nofun⟩
  case h_3 => rw [writeSample_eq]; exact ⟨_, rfl, .capture ts (.awaitingFallingEdge ts) _ _ nofun⟩

theorem execPush_effect (b : BitVec 7) (s : State) : ∃ t, execPush b s = .next t ∧ OpEffect s (.push b) t := by
  unfold execPush
  cases hd : sampleOperand b with
  | some d => exact ⟨_, rfl, .push b d (sampleOperand_eq_some.mp hd)⟩
  | none => exact ⟨_, rfl, .badOperand _ rfl (by simpa [Instr.wellFormed] using sampleOperand_eq_none.mp hd)⟩

theorem execEnq_effect (tag : BitVec 2) (val : Fx) (s : State) :
    ∃ t, execEnq tag val s = .next t ∧ OpEffect s (.enq tag val) t := by
  unfold execEnq
  cases hc : commandOperand tag val with
  | some c =>
    obtain ⟨htag, hval⟩ := commandOperand_eq_some.mp hc
    exact ⟨_, rfl, .enq tag val c htag hval⟩
  | none => exact ⟨_, rfl, .badOperand _ rfl (commandOperand_eq_none.mp hc)⟩

theorem execDeq_effect (s : State) : ∃ t, execDeq s = .next t ∧ OpEffect s .deq t := by
  unfold execDeq
  cases hq : s.q.dequeue s.cfg.qCap with
  | some r => exact ⟨_, rfl, .deq r.1 r.2 hq⟩
  | none => exact ⟨_, rfl, .query _ _ rfl⟩

theorem execSer_effect (tag : BitVec 2) (val : Fx) (s : State) :
    ∃ t, execSer tag val s = .next t ∧ OpEffect s (.ser tag val) t := by
  unfold execSer
  cases hc : commandOperand tag val with
  | some c => exact ⟨_, rfl, .query _ _ rfl⟩
  | none => exact ⟨_, rfl, .badOperand _ rfl (commandOperand_eq_none.mp hc)⟩

/-- Every operation answers a next state, from every state, and that state is one of the listed ones. -/
theorem exec_effect (i : Instr) (s : State) : ∃ t, exec i s = .next t ∧ OpEffect s i t := by
  cases i with
  | capture ts => exact execCapture_effect ts s
  | push b => exact execPush_effect b s
  | enq tag val => exact execEnq_effect tag val s
  | deq => exact execDeq_effect s
  | ser tag val => exact execSer_effect tag val s
  | tick => exact ⟨_, rfl, .tick⟩
  | avg | allsame | sum | count | snap | space | len | isfull | isempty | fmt _ => exact ⟨_, rfl, .query _ _ rfl⟩

theorem OpEffect.of_exec {i : Instr} {s t : State} (h : exec i s = .next t) : OpEffect s i t := by
  obtain ⟨u, hu, heffect⟩ := exec_effect i s
  cases hu.symm.trans h
  exact heffect

/-! ## The invariant (R38 to R50) -/

theorem atDecision_inv {s : State} (h : s.Inv) : (atDecision s).Inv := by
  obtain ⟨hcfg, hwin, hq, -, -⟩ := h
  exact ⟨hcfg, push_ok _ hwin, hq, satinc_le _ _, satinc_le _ _⟩

theorem commitBatch_inv {s : State} (duty : DutySample) (h : s.Inv) : (commitBatch duty s).Inv := by
  obtain ⟨hcfg, hwin, hq, -, hsend⟩ := h
  rw [commitBatch_eq]
  exact ⟨hcfg, hwin, foldl_enqueue_ok _ hq, Nat.zero_le _, hsend⟩

theorem tickDecide_inv {s : State} (sample : DutySample) (h : s.Inv) : (tickDecide sample s).Inv := by
  cases hacts : actCondition (policyDuty sample s) s && spaceGate s with
  | true => rw [tickDecide_acts hacts]; exact commitBatch_inv _ h
  | false => rw [tickDecide_waits hacts]; exact h

theorem tickSend_inv {s : State} (h : s.Inv) : (tickSend s).Inv := by
  obtain ⟨-, hwaits⟩ | ⟨c, q, -, hdeq, hsends⟩ := tickSend_cases s
  · rw [hwaits]; exact h
  · obtain ⟨hcfg, hwin, hq, hupdate, -⟩ := h
    rw [hsends]
    exact ⟨hcfg, hwin, (dequeue_some hq hdeq).2, hupdate, Nat.zero_le _⟩

theorem tickStages_inv {s : State} (h : s.Inv) : (tickStages s).Inv :=
  tickSend_inv (tickDecide_inv _ (atDecision_inv h))

theorem OpEffect.keeps_inv {i : Instr} {s t : State} (h : OpEffect s i t) (hinv : s.Inv) : t.Inv := by
  obtain ⟨hcfg, hwin, hq, hcounters⟩ := id hinv
  cases h with
  | query | badOperand | capture => exact hinv
  | push b d => exact ⟨hcfg, push_ok d hwin, hq, hcounters⟩
  | enq tag val c => exact ⟨hcfg, hwin, enqueue_ok c hq, hcounters⟩
  | deq c q hdeq => exact ⟨hcfg, hwin, (dequeue_some hq hdeq).2, hcounters⟩
  | tick => exact tickStages_inv hinv

theorem powerOnReset_inv {s : State} (ok : Bool) (h : s.Inv) : (powerOnReset ok s).Inv := by
  obtain ⟨hcfg, -⟩ := h
  obtain ⟨⟨hn, -⟩, ⟨hcap, -⟩, -⟩ := id hcfg
  exact ⟨hcfg, windowEmpty_ok hn, queueEmpty_ok hcap, Nat.zero_le _, Nat.zero_le _⟩

/-- Settles O16: power-on and every operation keep the invariant; a fault writes none of the fields it speaks of. -/
theorem stepKeepsInvariant : Obligations.StepKeepsInvariant := by
  intro s t hinv hstep
  obtain ⟨-, ⟨-, rfl⟩ | ⟨ok, rest, -, rfl⟩ | ⟨p, w, rest, c, -, -, rfl⟩ |
    ⟨p, w, rest, i, -, -, hexec⟩⟩ := step_cases hstep
  · exact hinv
  · exact powerOnReset_inv ok hinv
  · exact hinv
  · exact (OpEffect.of_exec hexec).keeps_inv hinv

end Sys2Proof.Machine
end

section
/-! SUPPORT. The ring buffers refine lists (10_state.md R42, R51): what each function of the window, the queue and the
tick reads or writes is, under the invariant, what the list block's function reads or writes. -/

namespace Sys2Proof.Machine

/-! ## Answers -/

theorem lists_respond (v : Response) (s : State) : (respond .poll v s).lists = s.lists.answer v := rfl

theorem lists_takeFault (w : Word) (s : State) : (takeFault .badOperand .poll w s).lists = s.lists.refuse w := rfl

/-! ## What is read -/

theorem lists_sum {s : State} (h : s.Inv) : s.win.sum = (s.lists.recent.map fun d => d.val).sum := by
  obtain ⟨-, hwin, -⟩ := h
  exact sum_recent hwin

theorem lists_average {s : State} (h : s.Inv) : s.lists.average = s.win.average := by
  obtain ⟨-, hwin, -⟩ := h
  have hempty : s.win.recent s.cfg.n = [] ↔ s.win.count = 0 := by
    rw [← List.length_eq_zero_iff, recent_length]
  simp only [ListBlock.average, Window.average, State.lists, hempty, recent_length, ← sum_recent hwin]

theorem lists_stable {s : State} (h : s.Inv) : s.lists.stable = stable s := by
  obtain ⟨-, hwin, -⟩ := h
  rw [Bool.eq_iff_iff, stable, allSame_recent hwin]
  simp [ListBlock.stable, State.lists]

/-- The quotient that the policy reads is the average, with 0 for an empty window. -/
theorem sum_div_count (w : Window) : w.sum / w.count = w.average.getD 0 := by
  rw [Window.average]
  by_cases h : w.count = 0 <;> simp [h]

theorem lists_duty {s : State} (h : s.Inv) : s.lists.duty = policyDuty s.sample s := by
  rw [ListBlock.duty, lists_average h, policyDuty, sum_div_count]
  rfl

theorem lists_acts {s : State} (h : s.Inv) :
    s.lists.acts = (actCondition (policyDuty s.sample s) s && spaceGate s) := by
  have hlate : (s.ticksSinceLastUpdate == s.cfg.maxTicksBetweenUpdate) = overdue s := by
    obtain ⟨-, -, -, hupdate, -⟩ := h
    rw [Bool.eq_iff_iff, overdue, beq_iff_eq, decide_eq_true_iff]; omega
  have hspace : decide (s.q.count + 2 ≤ s.cfg.qCap) = spaceGate s := by
    rw [spaceGate, decide_eq_decide]; omega
  rw [ListBlock.acts, lists_stable h, lists_duty h, actCondition, ← hlate, ← hspace, ← contents_length s.cfg.qCap]
  rfl

theorem lists_fifo_eq_nil (s : State) : s.lists.fifo = [] ↔ s.q.count = 0 := by
  rw [← List.length_eq_zero_iff, State.lists, contents_length]

/-! ## What is written -/

theorem lists_pushSample {s : State} (d : DutySample) (h : s.Inv) :
    (pushSample d s).lists = { s.lists with recent := lastN s.cfg.n (s.win.recent s.cfg.n ++ [d]) } := by
  obtain ⟨-, hwin, -⟩ := h
  rw [← recent_push d hwin]
  rfl

theorem lists_enqueueCommand {s : State} (c : PsuCommand) (h : s.Inv) :
    (enqueueCommand c s).lists = { s.lists with fifo := lastN s.cfg.qCap (s.q.contents s.cfg.qCap ++ [c]) } := by
  obtain ⟨-, -, hq, -⟩ := h
  rw [← contents_enqueue c hq]
  rfl

theorem lists_commitBatch {s : State} (duty : DutySample) (h : s.Inv) :
    (commitBatch duty s).lists = { s.lists with
      fifo := lastN s.cfg.qCap (s.q.contents s.cfg.qCap ++ buildBatch s.cfg s.outputEnabled duty)
      outputEnabled := outputEnabledFor duty
      lastAppliedDuty := duty
      ticksSinceLastUpdate := 0 } := by
  obtain ⟨-, -, hq, -⟩ := h
  rw [commitBatch_eq, ← contents_foldl_enqueue _ hq]
  rfl

/-! ## The stages of a tick -/

theorem lists_atDecision {s : State} (h : s.Inv) : (atDecision s).lists = s.lists.tickStart := by
  obtain ⟨-, hwin, -⟩ := h
  rw [ListBlock.tickStart, State.lists, State.lists, ← recent_push s.sample hwin]
  rfl

theorem lists_tickDecide {s : State} (h : s.Inv) : (tickDecide s.sample s).lists = s.lists.tickDecide := by
  rw [ListBlock.tickDecide, lists_acts h]
  cases hacts : actCondition (policyDuty s.sample s) s && spaceGate s with
  | true => rw [tickDecide_acts hacts, lists_commitBatch _ h, if_pos rfl, lists_duty h]; rfl
  | false => rw [tickDecide_waits hacts]; rfl

theorem ListBlock.tickSend_of_empty {b : ListBlock} (h : b.fifo = []) : b.tickSend = b := by
  simp only [ListBlock.tickSend, h]

theorem ListBlock.tickSend_of_early {b : ListBlock} (h : b.ticksSinceLastSend ≠ b.cfg.minTicksBetweenSend) :
    b.tickSend = b := by
  unfold ListBlock.tickSend
  split
  · rfl
  · exact if_neg h

theorem ListBlock.tickSend_of_ready {b : ListBlock} {c : PsuCommand} {rest : List PsuCommand}
    (hfifo : b.fifo = c :: rest) (h : b.ticksSinceLastSend = b.cfg.minTicksBetweenSend) :
    b.tickSend = { b with fifo := rest, textOut := b.textOut ++ [serialize c], ticksSinceLastSend := 0 } := by
  simp only [ListBlock.tickSend, hfifo, if_pos h]

theorem lists_tickSend {s : State} (h : s.Inv) : (tickSend s).lists = s.lists.tickSend := by
  obtain ⟨-, -, hq, -, htop⟩ := h
  obtain ⟨hgate, hwaits⟩ | ⟨c, q, hgate, hdeq, hsends⟩ := tickSend_cases s
  · rw [hwaits]
    by_cases hready : s.ticksSinceLastSend = s.cfg.minTicksBetweenSend
    · have hempty : s.q.count = 0 := by simp [sendGate] at hgate; omega
      exact (ListBlock.tickSend_of_empty ((lists_fifo_eq_nil s).mpr hempty)).symm
    · exact (ListBlock.tickSend_of_early (b := s.lists) hready).symm
  · have hready : s.ticksSinceLastSend = s.cfg.minTicksBetweenSend := le_antisymm htop (sendGate_eq_true.mp hgate).1
    obtain ⟨hfifo, -⟩ := dequeue_some hq hdeq
    rw [hsends, ListBlock.tickSend_of_ready (b := s.lists) hfifo hready]
    rfl

theorem lists_tickStages {s : State} (h : s.Inv) :
    (tickStages s).lists = s.lists.tickStart.tickDecide.tickSend := by
  have hdecision := atDecision_inv h
  rw [← lists_atDecision h, ← lists_tickDecide hdecision, ← lists_tickSend (tickDecide_inv _ hdecision)]
  rfl

/-! ## The operations -/

theorem wsub16_eq_ofNat (a b : BitVec 16) : wsub16 a b = BitVec.ofNat 16 ((a.toNat + 65536 - b.toNat) % 65536) := by
  rw [← wsub16_toNat, BitVec.ofNat_toNat, BitVec.setWidth_eq]

/-- The sample of a period, on the elapsed count as a number. -/
theorem periodDuty_eq (width ts r : BitVec 16) : periodDuty width (wsub16 ts r) =
    if (ts.toNat + 65536 - r.toNat) % 65536 = 0 then none
    else some (toDuty (width.toNat * 100 / ((ts.toNat + 65536 - r.toNat) % 65536))) := by
  simp only [periodDuty, ← wsub16_toNat, ← BitVec.toNat_inj, BitVec.toNat_zero]

theorem execCapture_refines (ts : Timestamp) (s : State) :
    ∃ t, execCapture ts s = .next t ∧ t.lists = s.lists.capture ts := by
  have hcap : s.lists.cap = s.cap := rfl
  unfold execCapture ListBlock.capture
  rw [hcap]
  cases s.cap with
  | awaitingRisingEdge => exact ⟨_, rfl, rfl⟩
  | awaitingFallingEdge r => exact ⟨_, rfl, by rw [wsub16_eq_ofNat]; rfl⟩
  | awaitingPeriodEnd r w =>
    refine ⟨_, rfl, ?_⟩
    by_cases hzero : (ts.toNat + 65536 - r.toNat) % 65536 = 0
    · rw [periodDuty_eq, if_pos hzero]; exact (if_pos hzero).symm
    · rw [periodDuty_eq, if_neg hzero]; exact (if_neg hzero).symm

theorem execPush_refines {s : State} (b : BitVec 7) (h : s.Inv) :
    ∃ t, execPush b s = .next t ∧ t.lists = s.lists.exec (.push b) := by
  rw [execPush, ListBlock.exec]
  cases sampleOperand b with
  | some d => exact ⟨_, rfl, by rw [lists_respond, lists_pushSample d h]; rfl⟩
  | none => exact ⟨_, rfl, lists_takeFault _ s⟩

theorem execEnq_refines {s : State} (tag : BitVec 2) (val : Fx) (h : s.Inv) :
    ∃ t, execEnq tag val s = .next t ∧ t.lists = s.lists.exec (.enq tag val) := by
  rw [execEnq, ListBlock.exec]
  cases commandOperand tag val with
  | some c => exact ⟨_, rfl, by rw [lists_respond, lists_enqueueCommand c h]; rfl⟩
  | none => exact ⟨_, rfl, lists_takeFault _ s⟩

theorem execDeq_refines {s : State} (h : s.Inv) :
    ∃ t, execDeq s = .next t ∧ t.lists = s.lists.exec .deq := by
  obtain ⟨-, -, hq, -⟩ := h
  rw [execDeq, ListBlock.exec]
  cases hdeq : s.q.dequeue s.cfg.qCap with
  | some r =>
    have hfifo : s.lists.fifo = r.1 :: r.2.contents s.cfg.qCap := (dequeue_some hq hdeq).1
    exact ⟨_, rfl, by rw [hfifo]; rfl⟩
  | none =>
    have hfifo : s.lists.fifo = [] := dequeue_none.mp hdeq
    exact ⟨_, rfl, by rw [hfifo]; rfl⟩

theorem execSer_refines (tag : BitVec 2) (val : Fx) (s : State) :
    ∃ t, execSer tag val s = .next t ∧ t.lists = s.lists.exec (.ser tag val) := by
  rw [execSer, ListBlock.exec]
  cases commandOperand tag val with
  | some c => exact ⟨_, rfl, lists_respond _ s⟩
  | none => exact ⟨_, rfl, lists_takeFault _ s⟩

/-- Settles O57, one lemma per operation: those that branch are above, a query answers what it reads. -/
theorem operationsRefineListBlock : Obligations.OperationsRefineListBlock := by
  intro i s h
  cases i with
  | capture ts => exact execCapture_refines ts s
  | push b => exact execPush_refines b h
  | enq tag val => exact execEnq_refines tag val h
  | deq => exact execDeq_refines h
  | ser tag val => exact execSer_refines tag val s
  | tick => exact ⟨_, rfl, by rw [lists_respond, lists_tickStages h]; rfl⟩
  | avg => exact ⟨_, rfl, by rw [lists_respond, ← lists_average h]; rfl⟩
  | allsame => exact ⟨_, rfl, by rw [lists_respond, ← lists_stable h]; rfl⟩
  | sum => exact ⟨_, rfl, by rw [lists_respond, lists_sum h]; rfl⟩
  | count => exact ⟨_, rfl, by rw [lists_respond, ← recent_length s.cfg.n]; rfl⟩
  | space => exact ⟨_, rfl, by rw [lists_respond, CommandQueue.space, ← contents_length s.cfg.qCap]; rfl⟩
  | len => exact ⟨_, rfl, by rw [lists_respond, ← contents_length s.cfg.qCap]; rfl⟩
  | isfull => exact ⟨_, rfl, by rw [lists_respond, CommandQueue.isFull, ← contents_length s.cfg.qCap]; rfl⟩
  | isempty =>
    have hempty : s.q.isEmpty = s.lists.fifo.isEmpty := by
      rw [Bool.eq_iff_iff, List.isEmpty_iff, lists_fifo_eq_nil, CommandQueue.isEmpty, beq_iff_eq]
    exact ⟨_, rfl, by rw [lists_respond, hempty]; rfl⟩
  | snap | fmt _ => exact ⟨_, rfl, lists_respond _ s⟩

end Sys2Proof.Machine
end

section
/-! SUPPORT. The causes computed from the opcode table (30_encoding.md R94) are those the decoder reports: each test on
the table's masks is the decoder's test of that bullet. -/

namespace Sys2Proof.Machine

/-! ## Rows of the table -/

/-- How many low bits of the op word the opcode's operands occupy (R92): those its row's mask leaves open. -/
def operandBits (o : Opcode) : Nat :=
  match o with
  | .capture => 16
  | .push => 7
  | .enq | .ser => 34
  | .fmt => 32
  | .avg | .allsame | .sum | .count | .tick | .snap | .deq | .space | .len | .isfull | .isempty => 0

theorem opcodeTable_row : ∀ r ∈ opcodeTable,
    r.pattern.toNat = r.opcode.code.toNat * 2 ^ 56 ∧
      r.mask = BitVec.ofNat 64 (2 ^ 64 - 2 ^ operandBits r.opcode) := by
  decide

theorem opcodeTable_complete (o : Opcode) : ∃ r ∈ opcodeTable, r.opcode = o := by
  cases o <;> decide

theorem opcodeOf_eq_some {b : BitVec 8} {o : Opcode} : opcodeOf b = some o ↔ o.code = b := by
  constructor
  · exact code_of_opcodeOf
  · rintro rfl; exact opcodeOf_code o

theorem topByte_eq_code {o : Opcode} {w : Word} (h : opcodeOf (opcField w) = some o) :
    w.toNat / 2 ^ 56 = o.code.toNat := by
  rw [← opcField_toNat, code_of_opcodeOf h]

theorem belowOpcode_eq (w : Word) :
    w.toNat % 2 ^ 56 = (rsvField w).toNat * 2 ^ 34 + (tagField w).toNat * 2 ^ 32 + (valField w).toNat := by
  have hfields := word_toNat_fields w
  have hrsv := (rsvField w).isLt
  have htag := (tagField w).isLt
  have hval := (valField w).isLt
  omega

/-- The bits that R92 marks 0 are 0 exactly when what is left of the word below its opcode fits the operands. -/
theorem reservedBitsZero_iff (o : Opcode) (w : Word) :
    reservedBitsZero o w = true ↔ w.toNat % 2 ^ 56 / 2 ^ operandBits o = 0 := by
  have htag := (tagField w).isLt
  have hval := (valField w).isLt
  rw [belowOpcode_eq]
  cases o <;>
    simp only [reservedBitsZero, operandBits, Bool.and_eq_true, beq_iff_eq, Bool.and_true, ← BitVec.toNat_inj,
      BitVec.extractLsb'_toNat, Nat.shiftRight_eq_div_pow, BitVec.toNat_ofNat] <;>
    omega

theorem operandBits_le (o : Opcode) : operandBits o ≤ 56 := by cases o <;> decide

/-- Above the operand bits a number is `c` in the top byte exactly when it has that byte and nothing between. -/
theorem aboveOperands_eq_iff (o : Opcode) (n c : Nat) :
    n / 2 ^ operandBits o * 2 ^ operandBits o = c * 2 ^ 56 ↔
      c = n / 2 ^ 56 ∧ n % 2 ^ 56 / 2 ^ operandBits o = 0 := by
  cases o <;> simp only [operandBits] <;> omega

/-- A word matches a row under its mask exactly when it has the row's opcode and the reserved bits are 0. -/
theorem matches_row {r : TableRow} (hr : r ∈ opcodeTable) (w : Word) :
    w &&& r.mask = r.pattern ↔ opcodeOf (opcField w) = some r.opcode ∧ reservedBitsZero r.opcode w = true := by
  obtain ⟨hpattern, hmask⟩ := opcodeTable_row r hr
  have hk := operandBits_le r.opcode
  rw [hmask, and_highMask_eq _ (by omega), hpattern, opcodeOf_eq_some, reservedBitsZero_iff, ← BitVec.toNat_inj,
    opcField_toNat, aboveOperands_eq_iff]

/-! ## The four tests -/

theorem unassigned_iff (w : Word) : unassigned w = true ↔ opcodeOf (opcField w) = none := by
  have hrow : ∀ r ∈ opcodeTable,
      r.pattern.toNat / 2 ^ 56 = w.toNat / 2 ^ 56 ↔ opcodeOf (opcField w) = some r.opcode := by
    intro r hr
    rw [(opcodeTable_row r hr).1, opcodeOf_eq_some, ← BitVec.toNat_inj, opcField_toNat]
    omega
  rw [unassigned, List.all_eq_true, Option.eq_none_iff_forall_ne_some]
  constructor
  · intro h o ho
    obtain ⟨r, hr, rfl⟩ := opcodeTable_complete o
    exact bne_iff_ne.mp (h r hr) ((hrow r hr).mpr ho)
  · intro h r hr
    exact bne_iff_ne.mpr fun heq => h _ ((hrow r hr).mp heq)

theorem matchesNoRow_iff {o : Opcode} {w : Word} (h : opcodeOf (opcField w) = some o) :
    matchesNoRow w = true ↔ reservedBitsZero o w = false := by
  obtain ⟨row, hrow, rfl⟩ := opcodeTable_complete o
  rw [matchesNoRow, List.all_eq_true, ← Bool.not_eq_true]
  constructor
  · intro hnone hzero
    exact bne_iff_ne.mp (hnone row hrow) ((matches_row hrow w).mpr ⟨h, hzero⟩)
  · intro hzero r hr
    refine bne_iff_ne.mpr fun hmatch => hzero ?_
    obtain ⟨hopcode, hreserved⟩ := (matches_row hr w).mp hmatch
    rwa [← Option.some.inj (h.symm.trans hopcode)] at hreserved

theorem operandOutOfRange_iff {o : Opcode} {w : Word} (h : opcodeOf (opcField w) = some o)
    (hzero : reservedBitsZero o w = true) :
    operandOutOfRange w = true ↔ (operandsOf o w).wellFormed = false := by
  have hval : (valField w).toNat = w.toNat % 2 ^ 32 := by simp [valField]
  have htag : (tagField w).toNat = w.toNat / 2 ^ 32 % 4 := by simp [tagField, Nat.shiftRight_eq_div_pow]
  rw [reservedBitsZero_iff] at hzero
  rw [operandOutOfRange, topByte_eq_code h]
  cases o with
  | push =>
    simp [Opcode.code, operandsOf, Instr.wellFormed, operandBits, hval] at hzero ⊢
    omega
  | enq | ser =>
    simp [Opcode.code, operandsOf, Instr.wellFormed, commandFieldsOk, ← BitVec.toNat_inj, hval, htag]
  | _ => simp [Opcode.code, operandsOf, Instr.wellFormed]

theorem operandsOf_port (o : Opcode) (w : Word) : (operandsOf o w).port = o.port := by cases o <;> rfl

theorem onWrongPort_iff {o : Opcode} {w : Word} (p : Port) (h : opcodeOf (opcField w) = some o) :
    onWrongPort p w = true ↔ o.port ≠ p := by
  unfold onWrongPort
  rw [topByte_eq_code h]
  cases p <;> cases o <;> decide

/-- The decoder reports the cause that the table gives: the same tests, in the same order. -/
theorem decodeOn_error_iff (p : Port) (w : Word) (c : Cause) :
    decodeOn p w = .error c ↔ firstCause p w = some c := by
  rw [decodeOn, decode_eq, firstCause]
  cases hopcode : opcodeOf (opcField w) with
  | none => simp [(unassigned_iff w).mpr hopcode]
  | some o =>
    have hassigned : unassigned w = false := by simpa [hopcode] using (unassigned_iff w).not
    have hrow := matchesNoRow_iff hopcode
    cases hzero : reservedBitsZero o w with
    | false => simp [hassigned, hrow.mpr hzero, hzero]
    | true =>
      have hmatches : matchesNoRow w = false := by simpa [hzero] using hrow
      have hrange := operandOutOfRange_iff hopcode hzero
      cases hwf : (operandsOf o w).wellFormed with
      | false => simp [hassigned, hmatches, hrange.mpr hwf, hzero, hwf]
      | true =>
        have hfits : operandOutOfRange w = false := by simpa [hwf] using hrange
        have hport := onWrongPort_iff p hopcode
        by_cases hp : o.port = p <;>
          simp [hassigned, hmatches, hfits, hport, hp, hzero, hwf, operandsOf_port]

end Sys2Proof.Machine
end

section
/-! SUPPORT. What the block shows of itself: the edge select, the fault flag, the responses and the texts, and the
samples its window holds (10_state.md R35, R39, R42, R52 to R57). -/

namespace Sys2Proof.Machine

/-! ## The edge select -/

theorem OpEffect.keeps_edgeAgrees {i : Instr} {s t : State} (h : OpEffect s i t) (hs : s.EdgeAgrees) :
    t.EdgeAgrees := by
  cases h with
  | query | badOperand | push | enq | deq => exact hs
  | capture ts c d v => exact (edgeAgrees_iff _).mpr rfl
  | tick =>
    obtain ⟨-, -, -, hcap, hedge, -⟩ := tickStages_frame s
    rw [edgeAgrees_iff] at hs ⊢
    simpa [hcap, hedge] using hs

/-- Settles O17: CAPTURE requests the edge its new state waits for, power-on takes both to rising, and nothing else
writes either. -/
theorem stepKeepsEdgeAgreement : Obligations.StepKeepsEdgeAgreement := by
  intro s t hagrees hstep
  obtain ⟨-, ⟨-, rfl⟩ | ⟨ok, rest, -, rfl⟩ | ⟨p, w, rest, c, -, -, rfl⟩ |
    ⟨p, w, rest, i, -, -, hexec⟩⟩ := step_cases hstep
  · exact hagrees
  · exact (edgeAgrees_iff _).mpr rfl
  · exact hagrees
  · exact (OpEffect.of_exec hexec).keeps_edgeAgrees hagrees

/-! ## The fault flag -/

/-- A word that the decoder refuses takes the fault, on the port it came on (R230). -/
theorem step_illegal {s : State} {p : Port} {w : Word} {rest : List Input} {c : Cause} (hinit : s.initOk = true)
    (hinbox : s.inbox = .op p w :: rest) (hillegal : decodeOn p w = .error c) :
    step s = .next (takeFault c p w { s with inbox := rest }) := by
  rw [step_deliver hinit hinbox, deliver, hillegal]

theorem step_legal {s : State} {p : Port} {w : Word} {rest : List Input} {i : Instr} (hinit : s.initOk = true)
    (hinbox : s.inbox = .op p w :: rest) (hlegal : decodeOn p w = .ok i) :
    step s = exec i { s with inbox := rest } := by
  rw [step_deliver hinit hinbox, deliver, hlegal]

/-- The fault flag after an operation: only BAD_OPERAND writes it, and sets it. -/
theorem OpEffect.fault_cases {i : Instr} {s t : State} (h : OpEffect s i t) :
    t.fault = s.fault ∨ (i.wellFormed = false ∧ t.fault = true) := by
  cases h with
  | query | capture | push | enq | deq => exact .inl rfl
  | badOperand i _ hbad => exact .inr ⟨hbad, rfl⟩
  | tick =>
    obtain ⟨-, -, -, -, -, -, -, hfault, -⟩ := tickStages_frame s
    exact .inl hfault

theorem exec_keeps_fault {i : Instr} {s t : State} (hexec : exec i s = .next t) (h : s.fault = true) :
    t.fault = true := by
  rcases (OpEffect.of_exec hexec).fault_cases with hkeeps | ⟨-, hsets⟩
  · rw [hkeeps, h]
  · exact hsets

theorem step_keeps_fault {s t : State} (hstep : step s = .next t) (h : s.fault = true) :
    t.fault = true ∨ ∃ ok rest, s.inbox = .powerOn ok :: rest ∧ t.fault = false := by
  obtain ⟨-, ⟨-, rfl⟩ | ⟨ok, rest, hinbox, rfl⟩ | ⟨p, w, rest, c, -, -, rfl⟩ |
    ⟨p, w, rest, i, -, -, hexec⟩⟩ := step_cases hstep
  · exact .inl h
  · exact .inr ⟨ok, rest, hinbox, rfl⟩
  · exact .inl rfl
  · exact .inl (exec_keeps_fault hexec h)

/-- Settles O8: a word with a cause in the table is one the decoder refuses, and of the four things a step can do only
power-on clears the flag. -/
theorem faultFlagIsSticky : Obligations.FaultFlagIsSticky := by
  refine ⟨fun _ => rfl, fun s p w rest c hinit hinbox hcause => ?_, fun i s t => exec_keeps_fault,
    fun s t => step_keeps_fault⟩
  exact ⟨_, step_illegal hinit hinbox ((decodeOn_error_iff p w c).mpr hcause), rfl⟩

/-! ## Responses -/

/-- Every operation gives one response, on its own port, and leaves the environment's side alone. -/
theorem OpEffect.responds {i : Instr} {s t : State} (h : OpEffect s i t) :
    (∃ v, t.respOut = s.respOut ++ [⟨i.port, v⟩]) ∧ t.inbox = s.inbox ∧ t.initOk = s.initOk := by
  cases h with
  | query i v hport => rw [hport]; exact ⟨⟨v, rfl⟩, rfl, rfl⟩
  | badOperand i hport => rw [hport]; exact ⟨⟨_, rfl⟩, rfl, rfl⟩
  | capture | push | enq | deq => exact ⟨⟨_, rfl⟩, rfl, rfl⟩
  | tick =>
    obtain ⟨-, hinit, hinbox, -, -, -, -, -, -, hresp⟩ := tickStages_frame s
    exact ⟨⟨.unit, by rw [respond_respOut, hresp]; rfl⟩, hinbox, hinit⟩

/-- Settles O10: an illegal word is answered by its fault, a legal one by its operation, whose port is the word's. -/
theorem everyOpWordGetsOneResponse : Obligations.EveryOpWordGetsOneResponse := by
  intro s p w rest hinit hinbox
  cases hdecode : decodeOn p w with
  | error c => exact ⟨_, .fault c w, step_illegal hinit hinbox hdecode, rfl, rfl, hinit⟩
  | ok i =>
    obtain ⟨-, rfl⟩ := decodeOn_ok.mp hdecode
    obtain ⟨t, hexec, heffect⟩ := exec_effect i { s with inbox := rest }
    obtain ⟨⟨v, hresp⟩, hrest, hkeeps⟩ := heffect.responds
    exact ⟨t, v, (step_legal hinit hinbox hdecode).trans hexec, hresp, hrest, hkeeps.trans hinit⟩

/-! ## Texts -/

/-- A tick emits nothing, or the text of one command (R169). -/
theorem tickStages_textOut (s : State) :
    (tickStages s).textOut = s.textOut ∨ ∃ c, (tickStages s).textOut = s.textOut ++ [serialize c] := by
  have hdecide : (tickDecide (snapshot s) (atDecision s)).textOut = s.textOut := by rw [tickDecide_frame]; rfl
  rcases tickSend_cases (tickDecide (snapshot s) (atDecision s)) with ⟨-, hwaits⟩ | ⟨c, q, -, -, hsends⟩
  · exact .inl ((congrArg State.textOut hwaits).trans hdecide)
  · refine .inr ⟨c, (congrArg State.textOut hsends).trans ?_⟩
    rw [hdecide]

/-- Settles O40: TICK's send stage is the only place where an operation emits. -/
theorem onlyTicksEmitAndAtMostOneText : Obligations.OnlyTicksEmitAndAtMostOneText := by
  intro i s t hexec
  cases OpEffect.of_exec hexec with
  | query | badOperand | capture | push | enq | deq => exact .inl rfl
  | tick => exact (tickStages_textOut s).imp id fun hsent => ⟨rfl, hsent⟩

/-! ## The samples of the window -/

/-- Settles O29: PUSH runs the window's push, which keeps the newest samples and the invariant, and under the
invariant the running sum is the sum of the samples held. -/
theorem pushKeepsNewestSamples : Obligations.PushKeepsNewestSamples := by
  intro s b hinv hb
  obtain ⟨-, hwin, -⟩ := hinv
  have hd : sampleOperand b = some ⟨b.toNat, by omega⟩ := sampleOperand_eq_some.mpr rfl
  have hexec : exec (.push b) s = .next (respond .poll .unit (pushSample ⟨b.toNat, by omega⟩ s)) := by
    rw [exec, execPush, hd]
  exact ⟨_, _, rfl, hexec, recent_push _ hwin, sum_recent (push_ok _ hwin)⟩

end Sys2Proof.Machine
end

section
/-! SUPPORT. The interface of 20_memory.md: the byte order of a transported op word (R72), and how the edge agent's
CAPTURE and the poll agent's operations touch each other only through the sample cell (R73 to R77). -/

namespace Sys2Proof.Machine

/-! ## The transport of an op word (R72) -/

/-- The eight bits of a word from bit `n` up, as a number. -/
theorem byteAt_toNat (w : Word) (n : Nat) : (w.extractLsb' n 8).toNat = w.toNat / 2 ^ n % 256 := by
  rw [BitVec.extractLsb'_toNat, Nat.shiftRight_eq_div_pow]

theorem bytesOfWord_length (w : Word) : (bytesOfWord w).length = 8 := rfl

theorem bytesOfWord_getD (w : Word) {k : Nat} (h : k < 8) : (bytesOfWord w).getD k 0 = w.extractLsb' (8 * k) 8 := by
  interval_cases k <;> rfl

/-- The eight bytes, as digits to the base 256, give back the number of the word. -/
theorem wordOfBytes_bytesOfWord (w : Word) : wordOfBytes (bytesOfWord w) = some w := by
  have hw := w.isLt
  refine congrArg some (BitVec.eq_of_toNat_eq ?_)
  simp only [append_toNat, byteAt_toNat]
  omega

/-- Settles O5: byte `k` is the eight bits from bit `8 * k` up, and all eight together determine the word. -/
theorem transportIsLeastSignificantByteFirst : Obligations.TransportIsLeastSignificantByteFirst := by
  intro w
  refine ⟨wordOfBytes_bytesOfWord w, bytesOfWord_length w, fun k hk => ?_⟩
  rw [bytesOfWord_getD w hk, byteAt_toNat]

/-! ## The capture side (R75) -/

/-- Settles O26: of the things an operation can do, only CAPTURE's writes the capture side, and it is on the edge
port. -/
theorem pollOperationsKeepCaptureSide : Obligations.PollOperationsKeepCaptureSide := by
  intro i s t hport hexec
  cases OpEffect.of_exec hexec with
  | query | badOperand | push | enq | deq => exact ⟨rfl, rfl, rfl, rfl⟩
  | capture => nomatch hport
  | tick =>
    obtain ⟨-, -, -, hcap, hedge, hsample, -, -, hselect, -⟩ := tickStages_frame s
    exact ⟨hsample, hcap, hedge, hselect⟩

/-- What CAPTURE writes and answers is fixed by the capture state and the timestamp (R74, R133). -/
theorem exec_capture_determined (ts : Timestamp) (k : CapState) :
    ∃ (c : CapState) (d : Option DutySample) (v : Response), ∀ s : State, s.cap = k → exec (.capture ts) s =
      .next (respond .edge v (requestEdge c.awaitedEdge { s with cap := c, sample := d.getD s.sample })) := by
  cases k with
  | awaitingRisingEdge =>
    exact ⟨.awaitingFallingEdge ts, none, .optDuty none, fun s hcap => by rw [exec, execCapture, hcap]; rfl⟩
  | awaitingFallingEdge rise =>
    exact ⟨.awaitingPeriodEnd rise (wsub16 ts rise), none, .optDuty none,
      fun s hcap => by rw [exec, execCapture, hcap]; rfl⟩
  | awaitingPeriodEnd rise width =>
    exact ⟨.awaitingFallingEdge ts, periodDuty width (wsub16 ts rise), .optDuty (periodDuty width (wsub16 ts rise)),
      fun s hcap => by rw [exec, execCapture, hcap]; simp only [writeSample_eq]; rfl⟩

/-! ## The poll side (R73, R74) -/

/-- `s` with the capture side of `u` (capture state, edge select and its requests, sample cell) and these responses. -/
def State.withCaptureSide (s u : State) (log : List Reply) : State :=
  { s with cap := u.cap, edgeSel := u.edgeSel, sample := u.sample, selectOut := u.selectOut, respOut := log }

section
variable (s u : State) (log : List Reply)

theorem tickDecide_withCaptureSide (sample : DutySample) :
    tickDecide sample (s.withCaptureSide u log) = (tickDecide sample s).withCaptureSide u log := by
  cases hacts : actCondition (policyDuty sample s) s && spaceGate s with
  | true =>
    have hoverlay := tickDecide_acts (s := s.withCaptureSide u log) hacts
    rw [hoverlay, tickDecide_acts hacts, commitBatch_eq, commitBatch_eq]; rfl
  | false => rw [tickDecide_waits hacts]; exact tickDecide_waits hacts

theorem tickSend_withCaptureSide :
    tickSend (s.withCaptureSide u log) = (tickSend s).withCaptureSide u log := by
  have hgate : sendGate (s.withCaptureSide u log) = sendGate s := rfl
  have hdequeue : (s.withCaptureSide u log).q.dequeue (s.withCaptureSide u log).cfg.qCap =
    s.q.dequeue s.cfg.qCap := rfl
  unfold tickSend
  rw [hgate, hdequeue]
  split
  · split <;> rfl
  · rfl

variable {s u}

theorem snapshot_withCaptureSide (hsample : u.sample = s.sample) :
    snapshot (s.withCaptureSide u log) = snapshot s := hsample

/-- A tick sees of the capture side only the sample that its snapshot takes (R73). -/
theorem tickStages_withCaptureSide (hsample : u.sample = s.sample) :
    tickStages (s.withCaptureSide u log) = (tickStages s).withCaptureSide u log := by
  have hdecision : pushSample (snapshot s) (tickCounters (s.withCaptureSide u log)) =
    (atDecision s).withCaptureSide u log := rfl
  rw [tickStages, snapshot_withCaptureSide log hsample, hdecision, tickDecide_withCaptureSide,
    tickSend_withCaptureSide]; rfl

end

/-- A poll operation adds one response and, but for the snapshot of TICK and SNAP, sees nothing of the capture side: on
a state with another capture side and other responses given it does and answers the same (R73 to R75). -/
theorem exec_withCaptureSide {i : Instr} (hport : i.port = .poll) (s : State) :
    ∃ (t : State) (v : Response), exec i s = .next t ∧ t.respOut = s.respOut ++ [⟨.poll, v⟩] ∧
      ∀ (u : State) (log : List Reply), (u.sample = s.sample ∨ (i ≠ .tick ∧ i ≠ .snap)) →
        exec i (s.withCaptureSide u log) = .next (t.withCaptureSide u (log ++ [⟨.poll, v⟩])) := by
  cases i with
  | capture => nomatch hport
  | push sample =>
    simp only [exec, execPush]
    cases sampleOperand sample with
    | some _ | none => exact ⟨_, _, rfl, rfl, fun _ _ _ => rfl⟩
  | enq tag val =>
    simp only [exec, execEnq]
    cases commandOperand tag val with
    | some _ | none => exact ⟨_, _, rfl, rfl, fun _ _ _ => rfl⟩
  | ser tag val =>
    simp only [exec, execSer]
    cases commandOperand tag val with
    | some _ | none => exact ⟨_, _, rfl, rfl, fun _ _ _ => rfl⟩
  | deq =>
    simp only [exec, execDeq, State.withCaptureSide]
    cases s.q.dequeue s.cfg.qCap with
    | some _ | none => exact ⟨_, _, rfl, rfl, fun _ _ _ => rfl⟩
  | tick =>
    obtain ⟨-, -, -, -, -, -, -, -, -, hresp⟩ := tickStages_frame s
    refine ⟨_, .unit, rfl, by rw [respond_respOut, hresp], fun u log hsees => ?_⟩
    have hsample : u.sample = s.sample := hsees.resolve_right fun h => h.1 rfl
    rw [exec, execTick, tickStages_withCaptureSide log hsample]; rfl
  | snap =>
    refine ⟨_, .nat s.sample.val, rfl, rfl, fun u log hsees => ?_⟩
    have hsample : u.sample = s.sample := hsees.resolve_right fun h => h.2 rfl
    rw [exec, execSnap, snapshot_withCaptureSide log hsample]; rfl
  | avg | allsame | sum | count | space | len | isfull | isempty | fmt _ => exact ⟨_, _, rfl, rfl, fun _ _ _ => rfl⟩

theorem runOps_pair {i j : Instr} {s t u : State} (hi : exec i s = .next t) (hj : exec j t = .next u) :
    runOps [i, j] s = .next u := by
  simp only [runOps, hi, hj]

/-- Settles O27: CAPTURE finds the capture state as it was after the poll operation, which finds all that it sees as it
was after CAPTURE. -/
theorem captureCommutesWithPollOperations : Obligations.CaptureCommutesWithPollOperations := by
  intro s u ts i hport hcapture hsees
  obtain ⟨c, d, v, hdetermined⟩ := exec_capture_determined ts s.cap
  have hu := Host.Outcome.next.inj (hcapture.symm.trans (hdetermined s rfl))
  obtain ⟨t, w, hpoll, hresp, hlocal⟩ := exec_withCaptureSide hport s
  obtain ⟨hsample, hcap, -, hselect⟩ := pollOperationsKeepCaptureSide i s t hport hpoll
  have hbeside : u = s.withCaptureSide u (s.respOut ++ [⟨.edge, v⟩]) := by rw [hu]; rfl
  have hpoll_last := hlocal u (s.respOut ++ [⟨.edge, v⟩]) hsees
  rw [← hbeside] at hpoll_last
  refine ⟨_, _, ⟨.edge, v⟩, ⟨.poll, w⟩, runOps_pair hcapture hpoll_last,
    runOps_pair hpoll (hdetermined t hcap), ?_, ?_, rfl, rfl, ?_⟩
  · simp [State.withCaptureSide]
  · simp [hresp]
  · simp [State.withCaptureSide, respond, requestEdge, hu, hsample, hselect]

/-! ## Queries (R77) -/

/-- Settles O56: a query only adds its response, and the responses given so far are none of what an operation sees. -/
theorem queriesWriteNothing : Obligations.QueriesWriteNothing := by
  intro i s hwf hquery
  obtain ⟨u, hu, heffect⟩ := exec_effect i s
  cases heffect with
  | query i v hport =>
    obtain ⟨t, w, hexec, hresp, hlocal⟩ := exec_withCaptureSide hport s
    obtain rfl := Host.Outcome.next.inj (hu.symm.trans hexec)
    obtain rfl : v = w := by simpa using hresp
    have hagain := hlocal s (s.respOut ++ [⟨.poll, v⟩]) (.inl rfl)
    rw [List.append_assoc] at hagain
    exact ⟨v, hu, runOps_pair hu hagain⟩
  | badOperand i _ hbad => simp [hwf] at hbad
  | capture | push | enq | deq | tick => simp [Instr.opcode] at hquery

end Sys2Proof.Machine
end

section
/-! SUPPORT. The encoder and the decoder are inverse to each other, on well-formed operations and on legal words
(30_encoding.md R90 to R94); and what follows for one step. -/

namespace Sys2Proof.Machine

/-! ## Decoding an encoded operation (R90 to R93) -/

/-- The fields of every encoded operation, from the lemma of each constructor. -/
theorem encodedFields (i : Instr) : Laws.EncodedFields.Statement i := by
  cases i with
  | capture ts => exact Laws.EncodedFields.capture ts
  | push sample => exact Laws.EncodedFields.push sample
  | avg => exact Laws.EncodedFields.avg
  | allsame => exact Laws.EncodedFields.allsame
  | sum => exact Laws.EncodedFields.sum
  | count => exact Laws.EncodedFields.count
  | tick => exact Laws.EncodedFields.tick
  | snap => exact Laws.EncodedFields.snap
  | enq tag val => exact Laws.EncodedFields.enq tag val
  | deq => exact Laws.EncodedFields.deq
  | space => exact Laws.EncodedFields.space
  | len => exact Laws.EncodedFields.len
  | isfull => exact Laws.EncodedFields.isfull
  | isempty => exact Laws.EncodedFields.isempty
  | fmt val => exact Laws.EncodedFields.fmt val
  | ser tag val => exact Laws.EncodedFields.ser tag val

theorem opcodeOf_encode (i : Instr) : opcodeOf (opcField (encode i)) = some i.opcode := by
  obtain ⟨hopcode, -, -⟩ := encodedFields i
  rw [hopcode, opcodeOf_code]

/-- The encoder leaves 0 every bit that R92 marks 0: only CAPTURE and PUSH use a part of `VAL`. -/
theorem reservedBitsZero_encode (i : Instr) : reservedBitsZero i.opcode (encode i) = true := by
  cases i with
  | capture ts => simp [reservedBitsZero, encode, Instr.opcode, captureVal_fields ts]
  | push sample => simp [reservedBitsZero, encode, Instr.opcode, pushVal_fields sample]
  | _ => simp [reservedBitsZero, encode, Instr.opcode]

theorem decode_encode {i : Instr} (hwf : i.wellFormed = true) : decode (encode i) = .ok i := by
  obtain ⟨-, -, hoperands⟩ := encodedFields i
  exact decode_ok.mpr ⟨i.opcode, opcodeOf_encode i, reservedBitsZero_encode i, by rwa [hoperands], hoperands⟩

theorem decodeOn_encode {i : Instr} (hwf : i.wellFormed = true) : decodeOn i.port (encode i) = .ok i :=
  decodeOn_ok.mpr ⟨decode_encode hwf, rfl⟩

theorem tableWord_toNat (w : Word) : tableWord 64 w.toNat = w := by
  rw [tableWord, Nat.mod_eq_of_lt w.isLt, BitVec.ofNat_toNat, BitVec.setWidth_eq]

theorem decodeTableWord_encode {i : Instr} (hwf : i.wellFormed = true) :
    decodeTableWord 64 (encode i).toNat = some i := by
  simp only [decodeTableWord, tableWord_toNat, wordOfBytes_bytesOfWord, decode_encode hwf]

/-- Settles O1: the decoder's three tests pass on the encoded fields, the operation's port is its word's, and the
bytes carry the whole word. -/
theorem encodedInstructionDecodesToItself : Obligations.EncodedInstructionDecodesToItself :=
  fun _ hwf => ⟨decode_encode hwf, decodeOn_encode hwf, decodeTableWord_encode hwf⟩

/-! ## Encoding a decoded word (R94) -/

theorem rsvField_of_reservedBitsZero {o : Opcode} {w : Word} (h : reservedBitsZero o w = true) :
    rsvField w = 0#22 := by
  obtain ⟨hrsv, -⟩ := Bool.and_eq_true_iff.mp h
  exact beq_iff_eq.mp hrsv

/-- With the reserved bits 0, the encoder writes back the `TAG` and `VAL` that the operands were read from. -/
theorem encode_operandsOf {o : Opcode} {w : Word} (h : reservedBitsZero o w = true) :
    encode (operandsOf o w) = opWord o.code (tagField w) (valField w) := by
  obtain ⟨-, hfields⟩ := Bool.and_eq_true_iff.mp h
  cases o with
  | capture =>
    rw [Bool.and_eq_true, beq_iff_eq, beq_iff_eq] at hfields
    obtain ⟨htag, hval⟩ := hfields
    rw [operandsOf, encode, captureVal_of_zero hval, htag]; rfl
  | push =>
    rw [Bool.and_eq_true, beq_iff_eq, beq_iff_eq] at hfields
    obtain ⟨htag, hval⟩ := hfields
    rw [operandsOf, encode, pushVal_of_zero hval, htag]; rfl
  | enq | ser => rfl
  | fmt => rw [beq_iff_eq.mp hfields]; rfl
  | _ =>
    rw [Bool.and_eq_true, beq_iff_eq, beq_iff_eq] at hfields
    obtain ⟨htag, hval⟩ := hfields
    rw [htag, hval]; rfl

/-- Settles O2: a legal word has the opcode's code in `OPC` and 0 in `RSV`, so its four fields are those that the
encoder writes. -/
theorem decodedWordEncodesBack : Obligations.DecodedWordEncodesBack := by
  intro w i hdecode
  obtain ⟨o, hopcode, hzero, hwf, rfl⟩ := decode_ok.mp hdecode
  refine ⟨hwf, ?_⟩
  rw [encode_operandsOf hzero, code_of_opcodeOf hopcode, opWord_fields (rsvField_of_reservedBitsZero hzero)]

/-- Settles O3: each word is the encoding of a well-formed operation. -/
theorem testVectorWordsDecode : Obligations.TestVectorWordsDecode :=
  ⟨decode_encode (i := .capture 1000#16) rfl, decode_encode (i := .push 50#7) rfl, decode_encode (i := .tick) rfl,
    decode_encode (i := .enq 2#2 (-1#32)) rfl, decode_encode (i := .enq 1#2 0#32) rfl,
    decode_encode (i := .isempty) rfl, decode_encode (i := .fmt 1235#32) rfl,
    decode_encode (i := .ser 3#2 (-1#32)) rfl⟩

/-! ## The causes, and one step (R94, R230) -/

theorem firstCause_none_iff (p : Port) (w : Word) : firstCause p w = none ↔ ∃ i, decodeOn p w = .ok i := by
  have hcauses := decodeOn_error_iff p w
  cases hdecode : decodeOn p w with
  | error c => simp [(hcauses c).mp hdecode]
  | ok i => simpa [hdecode, Option.eq_none_iff_forall_ne_some] using hcauses

/-- Settles O4: the decoder's causes are the table's, and a word with one takes the fault on the port it came on. -/
theorem firstCauseIsReported : Obligations.FirstCauseIsReported :=
  ⟨decodeOn_error_iff, firstCause_none_iff, fun _ p w _ c hinit hinbox hcause =>
    step_illegal hinit hinbox ((decodeOn_error_iff p w c).mpr hcause)⟩

theorem homePort_encode (i : Instr) : homePort (encode i) = i.port := by
  rw [homePort, opcodeOf_encode]; rfl

theorem withFetchWord_encode (i : Instr) (s : State) : s.withFetchWord 64 (encode i).toNat =
    { s with initOk := true, inbox := .op i.port (encode i) :: s.inbox } := by
  rw [State.withFetchWord, tableWord_toNat, homePort_encode]

/-- Settles O6: a legal word runs its operation, and `withFetchWord` puts an encoded operation first on its own port,
where it is legal. -/
theorem stepRunsDecodedInstruction : Obligations.StepRunsDecodedInstruction := by
  refine ⟨fun _ _ _ _ _ => step_legal, fun s i hwf => ?_⟩
  rw [withFetchWord_encode]
  exact step_legal rfl rfl (decodeOn_encode hwf)

/-! ## Bad operands met by the operation (R94, R230) -/

theorem exec_push_bad {b : BitVec 7} (s : State) (h : 100 < b.toNat) :
    exec (.push b) s = .next (takeFault .badOperand .poll (encode (.push b)) s) := by
  rw [exec, execPush, sampleOperand_eq_none.mpr h]

theorem commandOperand_none_of_payload {tag : BitVec 2} {val : Fx} (htag : tag.toNat ≤ 1) (hval : val ≠ 0#32) :
    commandOperand tag val = none := by
  rw [commandOperand_eq_none]
  simp [commandFieldsOk, hval]; omega

/-- Settles O7: the operand is none in each of the three forms, and then the operation takes the fault. -/
theorem badOperandsTakeFault : Obligations.BadOperandsTakeFault := by
  refine ⟨fun s _ => exec_push_bad s, fun s tag val htag hval => ?_⟩
  have hnone := commandOperand_none_of_payload htag hval
  constructor
  · rw [exec, execEnq, hnone]; rfl
  · rw [exec, execSer, hnone]; rfl

end Sys2Proof.Machine
end

section
/-! SUPPORT. How long a command text is (30_encoding.md R105). -/

namespace Sys2Proof.Machine

theorem hundredths_div_lt {mag : Nat} (h : mag ≤ 2 ^ 31) : hundredths mag / 100 < 10 ^ 7 := by
  rw [hundredths]; omega

/-- A sign, seven digits, the point and two digits. -/
theorem fmt_length_le {raw : Int} (h : raw.natAbs ≤ 2 ^ 31) : (fmt raw).length ≤ 11 := by
  have hsign : (if raw < 0 then ascii "-" else []).length ≤ 1 := by split <;> decide
  have hint := dec_length (hundredths_div_lt h)
  have hpoint : (ascii ".").length = 1 := by decide
  simp only [fmt, dig2, List.length_append, List.length_cons, List.length_nil, hpoint]
  omega

theorem fxOperand_natAbs_le (val : Fx) : (fxOperand val).natAbs ≤ 2 ^ 31 := by
  have hlow := BitVec.le_toInt val
  have hhigh := BitVec.toInt_lt (x := val)
  rw [fxOperand]; omega

/-- Settles O54: six bytes of keyword before at most eleven of number; the least FX value has all seventeen. -/
theorem longestTextHasSeventeenBytes : Obligations.LongestTextHasSeventeenBytes := by
  refine ⟨fun c => ?_, .setCurrent 0x80000000#32, by decide⟩
  have hkeywords : (ascii "ISET1:").length = 6 ∧ (ascii "VSET1:").length = 6 := by decide
  cases c with
  | outputOn | outputOff => decide
  | setCurrent val | setVoltage val =>
    have hnumber := fmt_length_le (fxOperand_natAbs_le val)
    simp only [serialize, List.length_append, hkeywords]
    omega

end Sys2Proof.Machine
end

section
/-! SUPPORT. What the assembler issues (30_encoding.md R97): operands that R94 allows, on every kind of line. -/

namespace Sys2Proof.Machine

/-- Each input is a well-formed operation, issued on its own port. -/
def IssuedWellFormed (inputs : List Input) : Prop :=
  ∀ x ∈ inputs, ∃ i : Instr, i.wellFormed = true ∧ x = issue i

/-! ## Lists of inputs -/

theorem issuedWellFormed_nil : IssuedWellFormed [] := nofun

theorem issuedWellFormed_append {xs ys : List Input} (hxs : IssuedWellFormed xs) (hys : IssuedWellFormed ys) :
    IssuedWellFormed (xs ++ ys) :=
  fun x hx => (List.mem_append.mp hx).elim (hxs x) (hys x)

theorem issuedWellFormed_map {α : Type} {f : α → Instr} (l : List α) (hwf : ∀ a, (f a).wellFormed = true) :
    IssuedWellFormed (l.map fun a => issue (f a)) := by
  intro x hx
  obtain ⟨a, -, rfl⟩ := List.mem_map.mp hx
  exact ⟨f a, hwf a, rfl⟩

theorem issuedWellFormed_replicate {i : Instr} (k : Nat) (hwf : i.wellFormed = true) :
    IssuedWellFormed (List.replicate k (issue i)) :=
  fun _ hx => ⟨i, hwf, List.eq_of_mem_replicate hx⟩

theorem issuedWellFormed_single {i : Instr} (hwf : i.wellFormed = true) : IssuedWellFormed [issue i] :=
  issuedWellFormed_replicate 1 hwf

/-- A statement that reads one operand and issues one operation with it. -/
theorem issuedWellFormed_operand {α : Type} {operand : Option α} {f : α → Instr} {xs : List Input}
    (h : (operand.map fun v => [issue (f v)]) = some xs) (hwf : ∀ v, operand = some v → (f v).wellFormed = true) :
    IssuedWellFormed xs := by
  obtain ⟨v, hv, rfl⟩ := Option.map_eq_some_iff.mp h
  exact issuedWellFormed_single (hwf v hv)

/-! ## Operands -/

theorem percentOperand_le {cs : List Char} {b : BitVec 7} (h : percentOperand cs = some b) : b.toNat ≤ 100 := by
  unfold percentOperand at h
  split at h
  · split at h
    · cases h; rw [BitVec.toNat_ofNat]; omega
    · cases h
  · cases h

theorem commandLiteral_ok {toks : List (List Char)} {c : BitVec 2 × Fx} (h : commandLiteral toks = some c) :
    commandFieldsOk c.1 c.2 = true := by
  unfold commandLiteral at h
  split at h
  · split_ifs at h
    · cases h; decide
    · cases h; decide
  · split_ifs at h
    · obtain ⟨v, -, rfl⟩ := Option.map_eq_some_iff.mp h; rfl
    · obtain ⟨v, -, rfl⟩ := Option.map_eq_some_iff.mp h; rfl
  · cases h

/-- No operation written with its mnemonic alone has an operand that R94 could refuse. -/
theorem bareMnemonic_wellFormed {m : List Char} {i : Instr} (h : bareMnemonic m = some i) : i.wellFormed = true := by
  have hall : (bareMnemonic m).all Instr.wellFormed = true := by
    simp only [bareMnemonic, apply_ite (Option.all Instr.wellFormed), Option.all_some, Option.all_none,
      Instr.wellFormed, ite_self]
  rwa [h] at hall

/-! ## Statements, lines and programs -/

theorem operandStatement_wellFormed {m : List Char} {args : List (List Char)} {xs : List Input}
    (h : operandStatement m args = some xs) : IssuedWellFormed xs := by
  unfold operandStatement at h
  split_ifs at h with hcapture hpush hfmt henq hser hticks hedges
  · split at h
    · exact issuedWellFormed_operand h fun _ _ => rfl
    · cases h
  · split at h
    · exact issuedWellFormed_operand h fun _ hv => decide_eq_true (percentOperand_le hv)
    · cases h
  · split at h
    · exact issuedWellFormed_operand h fun _ _ => rfl
    · cases h
  · exact issuedWellFormed_operand h fun _ hc => commandLiteral_ok hc
  · exact issuedWellFormed_operand h fun _ hc => commandLiteral_ok hc
  · split at h
    · obtain ⟨k, -, hk⟩ := Option.bind_eq_some_iff.mp h
      split_ifs at hk
      cases hk
      exact issuedWellFormed_replicate k rfl
    · cases h
  · obtain ⟨ts, -, rfl⟩ := Option.map_eq_some_iff.mp h
    exact issuedWellFormed_map ts fun _ => rfl

theorem assembleLine_wellFormed {line : List Char} {xs : List Input} (h : assembleLine line = some xs) :
    IssuedWellFormed xs := by
  unfold assembleLine at h
  split at h
  · cases h; exact issuedWellFormed_nil
  · split at h
    next hbare =>
      split_ifs at h
      cases h
      exact issuedWellFormed_single (bareMnemonic_wellFormed hbare)
    · exact operandStatement_wellFormed h

theorem assemble_wellFormed {lines : List (List Char)} {inputs : List Input} (h : assemble lines = some inputs) :
    IssuedWellFormed inputs := by
  induction lines generalizing inputs with
  | nil => cases h; exact issuedWellFormed_nil
  | cons line rest ih =>
    unfold assemble at h
    split at h
    next hline hrest =>
      cases h
      exact issuedWellFormed_append (assembleLine_wellFormed hline) (ih hrest)
    · cases h

/-- Settles O58: every input issues a well-formed operation on its own port, where its word decodes. -/
theorem assembledInputsAreLegal : Obligations.AssembledInputsAreLegal := by
  intro lines inputs hassemble x hx
  obtain ⟨i, hwf, rfl⟩ := assemble_wellFormed hassemble x hx
  exact ⟨i, hwf, rfl, (firstCause_none_iff _ _).mpr ⟨i, decodeOn_encode hwf⟩⟩

end Sys2Proof.Machine
end

section
/-! SUPPORT. CAPTURE as functions of the capture state (40_capture.md): the form an event moves to, the sample it emits
and the edge it asks for; so what a stream of events does is a fold over its timestamps. -/

namespace Sys2Proof.Machine

/-! ## One event (R120) -/

/-- The form that an event at `ts` moves to (R121 to R123). -/
def CapState.afterEvent (ts : Timestamp) (c : CapState) : CapState :=
  match c with
  | .awaitingRisingEdge => .awaitingFallingEdge ts
  | .awaitingFallingEdge r => .awaitingPeriodEnd r (wsub16 ts r)
  | .awaitingPeriodEnd _ _ => .awaitingFallingEdge ts

/-- The sample that an event at `ts` emits (R121 to R124). -/
def CapState.emitted (ts : Timestamp) (c : CapState) : Option DutySample :=
  match c with
  | .awaitingRisingEdge => none
  | .awaitingFallingEdge _ => none
  | .awaitingPeriodEnd r w => periodDuty w (wsub16 ts r)

/-- One event: move, write the emitted sample if there is one, ask for the edge that is now awaited, and answer. -/
def captureEvent (ts : Timestamp) (s : State) : State :=
  respond .edge (.optDuty (s.cap.emitted ts)) (requestEdge (s.cap.afterEvent ts).awaitedEdge
    { s with cap := s.cap.afterEvent ts, sample := (s.cap.emitted ts).getD s.sample })

theorem exec_capture (ts : Timestamp) (s : State) : exec (.capture ts) s = .next (captureEvent ts s) := by
  rw [exec, execCapture, captureEvent]
  cases s.cap with
  | awaitingRisingEdge | awaitingFallingEdge => rfl
  | awaitingPeriodEnd => simp only [writeSample_eq]; rfl

/-- Settles O19: the first form moves and asks for the falling edge, and emits nothing. -/
theorem captureTakesRisingEdge : Obligations.CaptureTakesRisingEdge := by
  intro s ts hcap
  rw [exec_capture, captureEvent, hcap]; rfl

/-- Settles O20: the width is the wrapping difference. -/
theorem captureMeasuresWidth : Obligations.CaptureMeasuresWidth := by
  intro s ts r hcap
  refine ⟨wsub16 ts r, wsub16_toNat ts r, ?_⟩
  rw [exec_capture, captureEvent, hcap]; rfl

/-- Settles O21: the move and the request do not look at the period; what is emitted is `periodDuty`, on the elapsed
count as a number. -/
theorem captureMeasuresPeriod : Obligations.CaptureMeasuresPeriod := by
  intro s ts r w hcap
  have hemitted := periodDuty_eq w ts r
  constructor
  · intro hzero
    rw [if_pos hzero] at hemitted
    rw [exec_capture, captureEvent, hcap, CapState.emitted, hemitted]; rfl
  · intro hpositive
    rw [if_neg hpositive] at hemitted
    refine ⟨_, toDuty_val _, ?_⟩
    rw [exec_capture, captureEvent, hcap, CapState.emitted, hemitted]; rfl

/-! ## What an event reads and writes (R129, R133) -/

theorem afterEvent_ne_rising (ts : Timestamp) (c : CapState) : c.afterEvent ts ≠ .awaitingRisingEdge := by
  cases c <;> nofun

theorem capture_of_edge {i : Instr} (h : i.port = .edge) : ∃ ts, i = .capture ts := by
  cases i with
  | capture ts => exact ⟨ts, rfl⟩
  | _ => nomatch h

theorem exec_capture_ne_rising {ts : Timestamp} {s t : State} (h : exec (.capture ts) s = .next t) :
    t.cap ≠ .awaitingRisingEdge := by
  cases (exec_capture ts s).symm.trans h
  exact afterEvent_ne_rising ts s.cap

/-- Settles O22: an operation is on the poll port and keeps the capture state, or it is a CAPTURE. -/
theorem noOperationReturnsToAwaitingRisingEdge : Obligations.NoOperationReturnsToAwaitingRisingEdge := by
  refine ⟨fun s t ts => exec_capture_ne_rising, fun i s t hexec hleft => ?_⟩
  cases hport : i.port with
  | poll =>
    obtain ⟨-, hcap, -⟩ := pollOperationsKeepCaptureSide i s t hport hexec
    rwa [hcap]
  | edge =>
    obtain ⟨ts, rfl⟩ := capture_of_edge hport
    exact exec_capture_ne_rising hexec

/-- Settles O24: what CAPTURE writes and answers is a function of the timestamp, the capture state and the sample
cell; the level before is not even read. -/
theorem captureTouchesOnlyCaptureState : Obligations.CaptureTouchesOnlyCaptureState := by
  intro s s' ts hcap _ hsample
  refine ⟨s.cap.afterEvent ts, _, (s.cap.emitted ts).getD s.sample, _, exec_capture ts s, ?_⟩
  rw [exec_capture, captureEvent, ← hcap, ← hsample]; rfl

/-! ## A stream of events -/

/-- The events of a stream, one after another. -/
def captureEvents (events : List Timestamp) (s : State) : State := events.foldl (fun t ts => captureEvent ts t) s

theorem runOps_captures (events : List Timestamp) (s : State) :
    runOps (events.map .capture) s = .next (captureEvents events s) := by
  induction events generalizing s with
  | nil => rfl
  | cons ts rest ih =>
    rw [List.map_cons, runOps, exec_capture]
    exact ih (captureEvent ts s)

/-! ## Alternating requests (R130) -/

/-- The other of the two edges. -/
def EdgeSel.other (e : EdgeSel) : EdgeSel :=
  match e with
  | .rising => .falling
  | .falling => .rising

/-- An event moves to a form that awaits the other edge (R121 to R123). -/
theorem awaitedEdge_afterEvent (ts : Timestamp) (c : CapState) :
    (c.afterEvent ts).awaitedEdge = c.awaitedEdge.other := by
  cases c <;> rfl

/-- The level after `k` events of a block that started from reset. -/
def levelAfter (k : Nat) : EdgeSel := if k % 2 = 1 then .falling else .rising

theorem levelAfter_succ (k : Nat) : levelAfter (k + 1) = if k % 2 = 0 then .falling else .rising :=
  if_congr (by omega) rfl rfl

theorem levelAfter_succ_eq_other (k : Nat) : levelAfter (k + 1) = (levelAfter k).other := by
  rw [levelAfter_succ, levelAfter]
  rcases Nat.mod_two_eq_zero_or_one k with heven | hodd
  · rw [heven]; rfl
  · rw [hodd]; rfl

/-- The requests made so far are those of `k` events from reset, and the capture state and the level agree with them. -/
structure Alternates (k : Nat) (s : State) : Prop where
  awaited : s.cap.awaitedEdge = levelAfter k
  level : s.edgeSel = levelAfter k
  requests : s.selectOut = (List.range k).map fun j => levelAfter (j + 1)

theorem alternates_reset (c : Config) : Alternates 0 (State.resetWith c) := ⟨rfl, rfl, rfl⟩

theorem Alternates.after_event {k : Nat} {s : State} (ts : Timestamp) (h : Alternates k s) :
    Alternates (k + 1) (captureEvent ts s) := by
  have hnext : (s.cap.afterEvent ts).awaitedEdge = levelAfter (k + 1) := by
    rw [awaitedEdge_afterEvent, h.awaited, levelAfter_succ_eq_other]
  refine ⟨hnext, hnext, ?_⟩
  rw [List.range_succ, List.map_append, ← h.requests, List.map_singleton, ← hnext]; rfl

theorem Alternates.after_events {k : Nat} {s : State} (events : List Timestamp) (h : Alternates k s) :
    Alternates (k + events.length) (captureEvents events s) := by
  induction events generalizing k s with
  | nil => exact h
  | cons ts rest ih =>
    rw [List.length_cons, Nat.add_comm rest.length, ← Nat.add_assoc]
    exact ih (h.after_event ts)

/-- Settles O23: an event moves to the form that awaits the other edge and requests that edge. -/
theorem edgeSelectRequestsAlternate : Obligations.EdgeSelectRequestsAlternate := by
  refine ⟨fun s ts => ⟨_, _, exec_capture ts s, rfl, rfl⟩, fun c events => ?_⟩
  have halternates := (alternates_reset c).after_events events
  rw [Nat.zero_add] at halternates
  refine ⟨_, runOps_captures events _, ?_, halternates.level⟩
  simpa only [levelAfter_succ] using halternates.requests

/-! ## Shifted timestamps (R127) -/

theorem wsub16_shift (a b k : BitVec 16) : wsub16 (a + k) (b + k) = wsub16 a b := add_sub_add_right_eq_sub a b k

/-- A capture state whose stored timestamp is later by `k`; a stored width is a difference and stays. -/
def CapState.shift (k : Timestamp) (c : CapState) : CapState :=
  match c with
  | .awaitingRisingEdge => .awaitingRisingEdge
  | .awaitingFallingEdge r => .awaitingFallingEdge (r + k)
  | .awaitingPeriodEnd r w => .awaitingPeriodEnd (r + k) w

theorem afterEvent_shift (k ts : Timestamp) (c : CapState) :
    (c.shift k).afterEvent (ts + k) = (c.afterEvent ts).shift k := by
  cases c with
  | awaitingRisingEdge | awaitingPeriodEnd => rfl
  | awaitingFallingEdge r => exact congrArg (CapState.awaitingPeriodEnd (r + k)) (wsub16_shift ts r k)

theorem emitted_shift (k ts : Timestamp) (c : CapState) : (c.shift k).emitted (ts + k) = c.emitted ts := by
  cases c with
  | awaitingRisingEdge | awaitingFallingEdge => rfl
  | awaitingPeriodEnd r w => exact congrArg (periodDuty w) (wsub16_shift ts r k)

theorem awaitedEdge_shift (k : Timestamp) (c : CapState) : (c.shift k).awaitedEdge = c.awaitedEdge := by
  cases c <;> rfl

/-- The block whose stored timestamp is later by `k`; all else is the same. -/
def State.shiftCap (k : Timestamp) (s : State) : State := { s with cap := s.cap.shift k }

theorem captureEvent_shift (k ts : Timestamp) (s : State) :
    captureEvent (ts + k) (s.shiftCap k) = (captureEvent ts s).shiftCap k := by
  have hafter := afterEvent_shift k ts s.cap
  have hemitted := emitted_shift k ts s.cap
  rw [captureEvent, State.shiftCap, hafter, hemitted, awaitedEdge_shift]; rfl

theorem captureEvents_shift (k : Timestamp) (events : List Timestamp) (s : State) :
    captureEvents (events.map (· + k)) (s.shiftCap k) = (captureEvents events s).shiftCap k := by
  rw [captureEvents, List.foldl_map]
  exact List.foldl_hom (State.shiftCap k) fun t ts => captureEvent_shift k ts t

/-- Settles O25: reset holds no timestamp, so the shifted stream runs on a block that is later by `k` throughout, and a
later block asks for the same edges and answers the same. -/
theorem timestampOffsetDoesNotChangeSamples : Obligations.TimestampOffsetDoesNotChangeSamples := by
  intro c k events
  have hlater := captureEvents_shift k events (State.resetWith c)
  exact ⟨_, _, runOps_captures events _, (runOps_captures _ _).trans (congrArg _ hlater), rfl, rfl, rfl⟩

end Sys2Proof.Machine
end

section
/-! SUPPORT. The DebounceWindow (41_debounce.md): what PUSH and the queries answer, that no operation takes a sample out
of a full window, and what the window holds after a list of pushes. -/

namespace Sys2Proof.Machine

/-! ## PUSH (R140) -/

theorem exec_push_sample {b : BitVec 7} {d : DutySample} (s : State) (hd : d.val = b.toNat) :
    exec (.push b) s = .next (respond .poll .unit (pushSample d s)) := by
  rw [exec, execPush, sampleOperand_eq_some.mpr hd]

/-- Settles O28: an operand that is a sample is pushed, and one above 100 takes the fault. -/
theorem pushUpdatesWindow : Obligations.PushUpdatesWindow := by
  refine fun s b => ⟨fun d hd => ?_, exec_push_bad s⟩
  rw [exec_push_sample s hd, ← hd]; rfl

/-! ## The queries (R141 to R144) -/

/-- The stability gate as the condition on the slots that R142 states. -/
theorem stable_eq_true {s : State} : stable s = true ↔
    s.win.count = s.cfg.n ∧ ∀ i < s.cfg.n, s.win.slots.getD i 0 = s.win.slots.getD 0 0 := by
  simp only [stable, Window.allSame, Bool.and_eq_true, beq_iff_eq, List.all_eq_true, List.mem_range]

/-- Settles O32: each query only answers, and what it reads is what the rule says. -/
theorem windowQueriesAnswer : Obligations.WindowQueriesAnswer :=
  fun s => ⟨rfl, ⟨stable s, stable_eq_true, rfl⟩, rfl, rfl⟩

theorem average_eq_none {n : Nat} {w : Window} : w.average = none ↔ w.recent n = [] := by
  rw [← List.length_eq_zero_iff, recent_length, Window.average]
  split <;> simpa

/-- The samples of a window are percents, so their average is one. -/
theorem average_le_percent {n v : Nat} {w : Window} (hw : WindowOk n w) (h : w.average = some v) : v ≤ 100 := by
  have hsum : w.sum ≤ w.count * 100 := by
    calc w.sum = ((w.recent n).map fun d => d.val).sum := sum_recent hw
      _ ≤ 100 * (w.recent n).length := sum_le_percent _
      _ = w.count * 100 := by rw [recent_length, Nat.mul_comm]
  obtain rfl : w.sum / w.count = v := by rw [sum_div_count, h]; rfl
  exact Nat.div_le_of_le_mul hsum

/-- Settles O33: the average of no samples is none, and that of percents is a percent. -/
theorem averageIsPercent : Obligations.AverageIsPercent := by
  intro s hinv
  obtain ⟨-, hwin, -⟩ := hinv
  exact ⟨s.win.average, rfl, average_eq_none, fun v => average_le_percent hwin⟩

/-! ## The fill count (R147) -/

/-- The window after an operation: as it was, or with one sample pushed (by PUSH or by TICK's second stage). -/
theorem OpEffect.win_cases {i : Instr} {s t : State} (h : OpEffect s i t) :
    t.win = s.win ∨ ∃ d, t.win = s.win.push s.cfg.n d := by
  cases h with
  | query | badOperand | capture | enq | deq => exact .inl rfl
  | push b d => exact .inr ⟨d, rfl⟩
  | tick =>
    obtain ⟨-, -, -, -, -, -, hwin, -⟩ := tickStages_frame s
    exact .inr ⟨s.sample, hwin⟩

@[simp] theorem push_count (n : Nat) (d : DutySample) (w : Window) : (w.push n d).count = min (w.count + 1) n := rfl

/-- Settles O34: of all that an operation can do only a push writes the count, and it stops at the capacity. -/
theorem fullWindowStaysFull : Obligations.FullWindowStaysFull := by
  intro i s t hexec
  rw [exec_keeps_cfg hexec]
  obtain hkeeps | ⟨d, hpush⟩ := (OpEffect.of_exec hexec).win_cases
  · rw [hkeeps]; exact ⟨id, fun _ => le_rfl⟩
  · rw [hpush, push_count]; omega

/-! ## A list of pushes from reset (R145, R146) -/

/-- The samples held, oldest first, as numbers. -/
def State.heldPercents (s : State) : List Nat := (s.win.recent s.cfg.n).map fun d => d.val

theorem heldPercents_length (s : State) : s.heldPercents.length = s.win.count := by simp [State.heldPercents]

theorem heldPercents_sum {s : State} (h : s.Inv) : s.heldPercents.sum = s.win.sum := (lists_sum h).symm

theorem heldPercents_resetWith (c : Config) : (State.resetWith c).heldPercents = [] := rfl

theorem resetWith_inv {c : Config} (h : c.Valid) : (State.resetWith c).Inv := by
  obtain ⟨⟨hn, -⟩, ⟨hcap, -⟩, -⟩ := id h
  exact ⟨h, windowEmpty_ok hn, queueEmpty_ok hcap, Nat.zero_le _, Nat.zero_le _⟩

theorem map_lastN {α β : Type} (f : α → β) (k : Nat) (l : List α) : (lastN k l).map f = lastN k (l.map f) := by
  simp [lastN, List.map_drop]

theorem pairwise_equal_map {α β : Type} {f : α → β} (hf : Function.Injective f) (l : List α) :
    (∀ x ∈ l.map f, ∀ y ∈ l.map f, x = y) ↔ ∀ a ∈ l, ∀ b ∈ l, a = b := by
  simp only [List.forall_mem_map, hf.eq_iff]

/-- The stability gate over the samples held, as numbers: a full window of one value. -/
theorem stable_heldPercents {s : State} (h : s.Inv) : stable s = true ↔
    s.heldPercents.length = s.cfg.n ∧ ∀ x ∈ s.heldPercents, ∀ y ∈ s.heldPercents, x = y := by
  obtain ⟨-, hwin, -⟩ := h
  rw [stable, allSame_recent hwin, State.heldPercents, List.length_map, pairwise_equal_map Fin.val_injective]

theorem exec_push_held {s : State} {b : BitVec 7} (hinv : s.Inv) (hb : b.toNat ≤ 100) :
    ∃ t, exec (.push b) s = .next t ∧ t.Inv ∧ t.cfg = s.cfg ∧
      t.heldPercents = lastN s.cfg.n (s.heldPercents ++ [b.toNat]) := by
  obtain ⟨t, d, hd, hexec, hrecent, -⟩ := pushKeepsNewestSamples s b hinv hb
  refine ⟨t, hexec, (OpEffect.of_exec hexec).keeps_inv hinv, exec_keeps_cfg hexec, ?_⟩
  rw [State.heldPercents, hrecent, map_lastN, List.map_append, List.map_singleton, hd, State.heldPercents]

/-- Legal pushes keep the newest `N` of the samples held and the pushed values, in order. -/
theorem runOps_pushes {values : List (BitVec 7)} (hvalues : ∀ b ∈ values, b.toNat ≤ 100) {s : State} (hinv : s.Inv) :
    ∃ t, runOps (values.map .push) s = .next t ∧ t.Inv ∧ t.cfg = s.cfg ∧
      t.heldPercents = lastN s.cfg.n (s.heldPercents ++ values.map fun b => b.toNat) := by
  induction values generalizing s with
  | nil =>
    obtain ⟨-, ⟨-, -, hcount, -⟩, -⟩ := id hinv
    refine ⟨s, rfl, hinv, rfl, ?_⟩
    rw [List.map_nil, List.append_nil, lastN_of_le (by rwa [heldPercents_length])]
  | cons b rest ih =>
    obtain ⟨hb, hrest⟩ := List.forall_mem_cons.mp hvalues
    obtain ⟨u, hexec, huinv, hucfg, huheld⟩ := exec_push_held hinv hb
    obtain ⟨t, hrun, htinv, htcfg, htheld⟩ := ih hrest huinv
    refine ⟨t, ?_, htinv, htcfg.trans hucfg, ?_⟩
    · rw [List.map_cons, runOps, hexec]; exact hrun
    · rw [htheld, hucfg, huheld, lastN_lastN_append, List.append_assoc]; rfl

/-- After legal pushes from reset the window holds the last `N` of the pushed values. -/
theorem runOps_pushes_reset {c : Config} {values : List (BitVec 7)} (hc : c.Valid)
    (hvalues : ∀ b ∈ values, b.toNat ≤ 100) :
    ∃ t, runOps (values.map .push) (State.resetWith c) = .next t ∧ t.Inv ∧ t.cfg = c ∧
      t.heldPercents = (lastN c.n values).map fun b => b.toNat := by
  obtain ⟨t, hrun, hinv, hcfg, hheld⟩ := runOps_pushes hvalues (resetWith_inv hc)
  rw [heldPercents_resetWith, List.nil_append, ← map_lastN] at hheld
  exact ⟨t, hrun, hinv, hcfg, hheld⟩

/-- Settles O30: sum and count are those of the samples held, which are the last `N` of the pushed values. -/
theorem sumLawAfterPushes : Obligations.SumLawAfterPushes := by
  intro c values hc hvalues
  obtain ⟨t, hrun, hinv, -, hheld⟩ := runOps_pushes_reset hc hvalues
  have hdropped : values.length - min c.n values.length = values.length - c.n := by omega
  refine ⟨t, hrun, ?_, ?_⟩
  · rw [← heldPercents_sum hinv, hheld, hdropped, lastN]
  · rw [← heldPercents_length, hheld, List.length_map, lastN_length]

/-- Settles O31: the gate asks for `N` equal samples held, and those are the last `N` of the pushed values. -/
theorem stabilityLawAfterPushes : Obligations.StabilityLawAfterPushes := by
  intro c values hc hvalues
  obtain ⟨t, hrun, hinv, hcfg, hheld⟩ := runOps_pushes_reset hc hvalues
  refine ⟨t, stable t, hrun, rfl, ?_⟩
  rw [stable_heldPercents hinv, hheld, hcfg, List.length_map, lastN_length, min_eq_left_iff,
    pairwise_equal_map fun _ _ => BitVec.eq_of_toNat_eq]

end Sys2Proof.Machine
end

section
/-! SUPPORT. TICK by its stages (42_policy.md R160): when the policy acts and what a decision writes, when the send stage
sends and what it takes out of the queue; the batch of each band; and how far apart two sends are. -/

namespace Sys2Proof.Machine

/-! ## The batch of a band (R166) -/

theorem buildBatch_of_lt {c : Config} {enabled : Bool} {duty : DutySample} (h : duty.val < 10) :
    buildBatch c enabled duty =
      [.outputOff, .setCurrent (fxOfNat c.currentFloor), .setVoltage (fxOfNat c.voltageSet)] := if_pos h

/-- The current that the middle and the upper band set. -/
def bandCurrent (c : Config) (duty : DutySample) : Nat :=
  if duty.val < 90 then currentOf c.currentMax duty.val else c.currentMax

theorem buildBatch_of_ge {c : Config} {enabled : Bool} {duty : DutySample} {raw : Nat} (h : 10 ≤ duty.val)
    (hraw : bandCurrent c duty = raw) :
    buildBatch c enabled duty = (if enabled = false then [.outputOn] else []) ++ [.setCurrent (fxOfNat raw)] := by
  rw [buildBatch, if_neg (by omega), ← hraw]
  cases enabled with
  | false | true => rfl

theorem currentOf_le {currentMax d : Nat} (h : d ≤ 90) : currentOf currentMax d ≤ currentMax :=
  Nat.div_le_of_le_mul (Nat.mul_le_mul_right _ (by omega))

theorem outputEnabledFor_of_lt {duty : DutySample} (h : duty.val < 10) : outputEnabledFor duty = false :=
  decide_eq_false (by omega)

theorem outputEnabledFor_of_ge {duty : DutySample} (h : 10 ≤ duty.val) : outputEnabledFor duty = true :=
  decide_eq_true h

/-- Settles O36: the batch of each band by its equation; every current of a valid build is one that FX can hold. -/
theorem batchFollowsBand : Obligations.BatchFollowsBand := by
  intro c enabled duty hc
  obtain ⟨-, -, -, -, hmax, hfloor, hvolts⟩ := hc
  refine ⟨fun hlow => ⟨outputEnabledFor_of_lt hlow, ?_⟩,
    fun hmid hbelow => ⟨outputEnabledFor_of_ge hmid, ?_⟩,
    fun hhigh => ⟨outputEnabledFor_of_ge (by omega), ?_⟩⟩
  · exact ⟨_, _, fxOfNat_toInt hfloor, fxOfNat_toInt hvolts, buildBatch_of_lt hlow⟩
  · have hband : bandCurrent c duty = currentOf c.currentMax duty.val := if_pos hbelow
    have hheld : currentOf c.currentMax duty.val < 2147483648 := (currentOf_le hbelow.le).trans_lt hmax
    exact ⟨_, fxOfNat_toInt hheld, buildBatch_of_ge hmid hband⟩
  · have hband : bandCurrent c duty = c.currentMax := if_neg (by omega)
    exact ⟨_, fxOfNat_toInt hmax, buildBatch_of_ge (by omega) hband⟩

/-- Settles O45: SNAP answers its snapshot, and a response is all that is written. -/
theorem snapAnswersSampleCell : Obligations.SnapAnswersSampleCell := fun _ => rfl

/-! ## The duty, and when the policy acts (R163 to R165) -/

@[simp] theorem atDecision_cfg (s : State) : (atDecision s).cfg = s.cfg := rfl

@[simp] theorem atDecision_q (s : State) : (atDecision s).q = s.q := rfl

theorem quotient_le_percent {n : Nat} {w : Window} (hw : WindowOk n w) : w.sum / w.count ≤ 100 := by
  rw [sum_div_count]
  cases haverage : w.average with
  | none => exact Nat.zero_le _
  | some v => exact average_le_percent hw haverage

/-- The average of samples is a percent, so the duty is that average itself. -/
theorem dutyAtTick_average {s : State} (h : s.Inv) (hsource : s.cfg.dutySource = .average) :
    (dutyAtTick s).val = (s.win.push s.cfg.n s.sample).sum / (s.win.push s.cfg.n s.sample).count := by
  obtain ⟨-, hwin, -⟩ := h
  have hduty : dutyAtTick s = toDuty ((s.win.push s.cfg.n s.sample).sum / (s.win.push s.cfg.n s.sample).count) := by
    rw [dutyAtTick, policyDuty, atDecision_cfg, hsource]; rfl
  rw [hduty, toDuty_val]
  exact min_eq_left (quotient_le_percent (push_ok s.sample hwin))

theorem dutyAtTick_latest {s : State} (hsource : s.cfg.dutySource = .latest) : dutyAtTick s = s.sample := by
  rw [dutyAtTick, policyDuty, atDecision_cfg, hsource]; rfl

theorem overdue_atDecision {s : State} : overdue (atDecision s) = true ↔
    s.cfg.maxTicksBetweenUpdate ≤ s.ticksSinceLastUpdate + 1 := by
  simp [overdue, atDecision, satinc]

theorem actsAt_iff {s : State} : actsAt s = true ↔
    (stable (atDecision s) = true ∨ overdue (atDecision s) = true) ∧
      (dutyAtTick s ≠ s.lastAppliedDuty ∨ overdue (atDecision s) = true) ∧ s.q.count + 2 ≤ s.cfg.qCap := by
  have hspace : spaceGate (atDecision s) = true ↔ s.q.count + 2 ≤ s.cfg.qCap := by
    rw [spaceGate, decide_eq_true_iff, atDecision_cfg, atDecision_q]
    omega
  rw [actsAt, Bool.and_eq_true, hspace, actCondition, Bool.and_eq_true, Bool.or_eq_true, Bool.or_eq_true, bne_iff_ne,
    and_assoc]
  rfl

theorem actsAt_of_overdue {s : State} (hlate : s.cfg.maxTicksBetweenUpdate ≤ s.ticksSinceLastUpdate + 1)
    (hspace : s.q.count + 2 ≤ s.cfg.qCap) : actsAt s = true :=
  actsAt_iff.mpr ⟨.inr (overdue_atDecision.mpr hlate), .inr (overdue_atDecision.mpr hlate), hspace⟩

theorem actsAt_of_no_space {s : State} (h : s.cfg.qCap < s.q.count + 2) : actsAt s = false := by
  rw [← Bool.not_eq_true, actsAt_iff]
  rintro ⟨-, -, hspace⟩
  omega

theorem builtAt_acts {s : State} (h : actsAt s = true) :
    builtAt s = buildBatch s.cfg s.outputEnabled (dutyAtTick s) := if_pos h

theorem builtAt_waits {s : State} (h : actsAt s = false) : builtAt s = [] := if_neg (by simp [h])

/-! ## What a decision writes (R165 to R167) -/

/-- The state that the send stage of a TICK at `s` sees (R160, stages 1 to 3). -/
def atSend (s : State) : State := tickDecide (snapshot s) (atDecision s)

theorem tickStages_eq_tickSend (s : State) : tickStages s = tickSend (atSend s) := rfl

theorem atSend_acts {s : State} (h : actsAt s = true) : atSend s = { atDecision s with
    outputEnabled := outputEnabledFor (dutyAtTick s)
    q := (buildBatch s.cfg s.outputEnabled (dutyAtTick s)).foldl (fun q c => q.enqueue s.cfg.qCap c) s.q
    lastAppliedDuty := dutyAtTick s
    ticksSinceLastUpdate := 0 } :=
  (tickDecide_acts h).trans (commitBatch_eq _ _)

theorem atSend_waits {s : State} (h : actsAt s = false) : atSend s = atDecision s := tickDecide_waits h

theorem atSend_frame (s : State) : atSend s = { atDecision s with
    outputEnabled := (atSend s).outputEnabled
    q := (atSend s).q
    lastAppliedDuty := (atSend s).lastAppliedDuty
    ticksSinceLastUpdate := (atSend s).ticksSinceLastUpdate } := tickDecide_frame _ _

@[simp] theorem atSend_cfg (s : State) : (atSend s).cfg = s.cfg := by rw [atSend_frame]; rfl

@[simp] theorem atSend_textOut (s : State) : (atSend s).textOut = s.textOut := by rw [atSend_frame]; rfl

@[simp] theorem atSend_ticksSinceLastSend (s : State) :
    (atSend s).ticksSinceLastSend = min (s.ticksSinceLastSend + 1) s.cfg.minTicksBetweenSend := by
  rw [atSend_frame]; rfl

theorem atSend_inv {s : State} (h : s.Inv) : (atSend s).Inv := tickDecide_inv _ (atDecision_inv h)

/-- The batch goes behind the entries, and the queue keeps the newest of them all. -/
theorem contents_atSend {s : State} (h : s.Inv) :
    (atSend s).q.contents s.cfg.qCap = lastN s.cfg.qCap (s.q.contents s.cfg.qCap ++ builtAt s) := by
  obtain ⟨-, -, hq, -⟩ := h
  cases hacts : actsAt s with
  | true => rw [atSend_acts hacts, builtAt_acts hacts]; exact contents_foldl_enqueue _ hq
  | false =>
    rw [atSend_waits hacts, builtAt_waits hacts, List.append_nil, lastN_of_le (by simpa using hq.2.2)]
    rfl

theorem enqueue_count_pos (cap : Nat) (c : PsuCommand) (q : CommandQueue) : 0 < (q.enqueue cap c).count :=
  Nat.succ_pos _

theorem foldl_enqueue_count_pos {cap : Nat} (batch : List PsuCommand) {q : CommandQueue} (h : 0 < q.count) :
    0 < (batch.foldl (fun q c => q.enqueue cap c) q).count := by
  induction batch generalizing q with
  | nil => exact h
  | cons c batch ih => exact ih (enqueue_count_pos cap c q)

/-- A command that waits before the tick's decision waits after it, or a newer one does. -/
theorem atSend_count_pos {s : State} (h : 0 < s.q.count) : 0 < (atSend s).q.count := by
  cases hacts : actsAt s with
  | true => rw [atSend_acts hacts]; exact foldl_enqueue_count_pos _ h
  | false => rw [atSend_waits hacts]; exact h

/-! ## What a tick sends (R169) -/

theorem sendGate_atSend {s : State} : sendGate (atSend s) = true ↔
    s.cfg.minTicksBetweenSend ≤ s.ticksSinceLastSend + 1 ∧ 0 < (atSend s).q.count := by
  simp [sendGate_eq_true]

/-- A tick whose send gate is shut ends with its decision. -/
theorem tickStages_silent {s : State}
    (h : ¬(s.cfg.minTicksBetweenSend ≤ s.ticksSinceLastSend + 1 ∧ 0 < (atSend s).q.count)) :
    tickStages s = atSend s := by
  rw [← sendGate_atSend] at h
  exact if_neg h

/-- A tick whose send gate is open takes the oldest command out, emits its text and clears the send counter. -/
theorem tickStages_sending {s : State}
    (h : s.cfg.minTicksBetweenSend ≤ s.ticksSinceLastSend + 1 ∧ 0 < (atSend s).q.count) :
    ∃ c q, (atSend s).q.dequeue s.cfg.qCap = some (c, q) ∧
      tickStages s = { atSend s with q := q, textOut := s.textOut ++ [serialize c], ticksSinceLastSend := 0 } := by
  obtain ⟨hshut, -⟩ | ⟨c, q, -, hdeq, hsends⟩ := tickSend_cases (atSend s)
  · rw [sendGate_atSend.mpr h] at hshut
    cases hshut
  · rw [atSend_cfg] at hdeq
    rw [atSend_textOut] at hsends
    exact ⟨c, q, hdeq, hsends⟩

/-- The send stage writes the queue, the texts and the send counter. -/
theorem tickStages_eq_atSend (s : State) : tickStages s = { atSend s with
    q := (tickStages s).q
    textOut := (tickStages s).textOut
    ticksSinceLastSend := (tickStages s).ticksSinceLastSend } := by
  rw [tickStages_eq_tickSend]
  obtain ⟨-, hsilent⟩ | ⟨c, q, -, -, hsends⟩ := tickSend_cases (atSend s)
  · rw [hsilent]
  · rw [hsends]

/-- The send stage keeps what the decision wrote beside the queue. -/
theorem tickStages_keeps_decision (s : State) :
    (tickStages s).outputEnabled = (atSend s).outputEnabled ∧
    (tickStages s).lastAppliedDuty = (atSend s).lastAppliedDuty ∧
    (tickStages s).ticksSinceLastUpdate = (atSend s).ticksSinceLastUpdate := by
  rw [tickStages_eq_atSend]
  exact ⟨rfl, rfl, rfl⟩

/-- All that a tick writes. -/
theorem tickStages_writes (s : State) : tickStages s = { s with
    win := s.win.push s.cfg.n s.sample
    lastAppliedDuty := (tickStages s).lastAppliedDuty
    outputEnabled := (tickStages s).outputEnabled
    ticksSinceLastUpdate := (tickStages s).ticksSinceLastUpdate
    ticksSinceLastSend := (tickStages s).ticksSinceLastSend
    q := (tickStages s).q
    textOut := (tickStages s).textOut } := by
  rw [tickStages_eq_atSend, atSend_frame]
  rfl

/-- What a tick sends: nothing, or the oldest command that the queue holds after the decision. -/
theorem tickStages_sends {s : State} (h : s.Inv) : ∃ sent : List PsuCommand,
    (tickStages s).textOut = s.textOut ++ sent.map serialize ∧
    (atSend s).q.contents s.cfg.qCap = sent ++ (tickStages s).q.contents s.cfg.qCap ∧
    (s.cfg.minTicksBetweenSend ≤ s.ticksSinceLastSend + 1 ∧ (atSend s).q.contents s.cfg.qCap ≠ [] →
      sent.length = 1 ∧ (tickStages s).ticksSinceLastSend = 0) ∧
    (¬(s.cfg.minTicksBetweenSend ≤ s.ticksSinceLastSend + 1 ∧ (atSend s).q.contents s.cfg.qCap ≠ []) →
      sent = [] ∧
      (tickStages s).ticksSinceLastSend = min (s.ticksSinceLastSend + 1) s.cfg.minTicksBetweenSend) := by
  have hwaiting : (atSend s).q.contents s.cfg.qCap ≠ [] ↔ 0 < (atSend s).q.count := by
    rw [← List.length_pos_iff, contents_length]
  rw [hwaiting]
  by_cases hgate : s.cfg.minTicksBetweenSend ≤ s.ticksSinceLastSend + 1 ∧ 0 < (atSend s).q.count
  · obtain ⟨c, q, hdeq, hsends⟩ := tickStages_sending hgate
    obtain ⟨-, -, hq, -⟩ := atSend_inv h
    rw [atSend_cfg] at hq
    rw [hsends]
    exact ⟨[c], rfl, (dequeue_some hq hdeq).1, fun _ => ⟨rfl, rfl⟩, fun hshut => absurd hgate hshut⟩
  · rw [tickStages_silent hgate]
    exact ⟨[], by simp, rfl, fun hopen => absurd hopen hgate, fun _ => ⟨rfl, atSend_ticksSinceLastSend s⟩⟩

/-! ## One whole tick -/

theorem exec_tick (s : State) : exec .tick s = .next (respond .poll .unit (tickStages s)) := rfl

/-- Settles O35: the decision as `actsAt_iff` and `atSend_acts` give it, then the send. -/
theorem tickDecidesAndSends : Obligations.TickDecidesAndSends := by
  intro s h w since late steady entries ready
  obtain ⟨sent, htexts, hsplit, hsends, hsilent⟩ := tickStages_sends h
  obtain ⟨hflag, happlied, hsince⟩ := tickStages_keeps_decision s
  have hlate : overdue (atDecision s) = true ↔ late := overdue_atDecision.trans min_eq_right_iff.symm
  have hsteady : stable (atDecision s) = true ↔ steady := stable_eq_true
  have hacts : actsAt s = true ↔
      (steady ∨ late) ∧ (dutyAtTick s ≠ s.lastAppliedDuty ∨ late) ∧ entries.length + 2 ≤ s.cfg.qCap := by
    rw [actsAt_iff, hlate, hsteady, contents_length]
  refine ⟨dutyAtTick s, _, _, sent, ?_, exec_tick s, ?_, ⟨fun hact => ?_, fun hwait => ?_⟩, hsplit, hsends, hsilent⟩
  · cases hsource : s.cfg.dutySource with
    | average => exact dutyAtTick_average h hsource
    | latest => exact congrArg Fin.val (dutyAtTick_latest hsource)
  · rw [← htexts]
    exact congrArg (respond .poll .unit) (tickStages_writes s)
  · have hact := hacts.mpr hact
    rw [contents_atSend h, builtAt_acts hact]
    rw [atSend_acts hact] at hflag happlied hsince
    exact ⟨rfl, hflag, happlied, hsince⟩
  · have hwait := (Bool.not_eq_true _).mp (hacts.not.mpr hwait)
    rw [atSend_waits hwait] at hflag happlied hsince ⊢
    exact ⟨rfl, hflag, happlied, hsince⟩

/-- Settles O37: an overdue tick meets both halves of the act condition. -/
theorem overdueTickActs : Obligations.OverdueTickActs := by
  intro s _ hlate hspace
  have hacts : actsAt s = true := actsAt_of_overdue hlate (by omega)
  obtain ⟨hflag, happlied, hsince⟩ := tickStages_keeps_decision s
  rw [atSend_acts hacts] at hflag happlied hsince
  exact ⟨hacts, _, exec_tick s, hsince, happlied, hflag⟩

/-- Settles O38: the space gate stops the decision, and the send stage takes at most one command out. -/
theorem fullQueueSkipsDecision : Obligations.FullQueueSkipsDecision := by
  intro s h hfull
  have hwaits : actsAt s = false := actsAt_of_no_space (by omega)
  obtain ⟨hflag, happlied, hsince⟩ := tickStages_keeps_decision s
  obtain ⟨sent, -, hsplit, hsends, hsilent⟩ := tickStages_sends h
  rw [atSend_waits hwaits] at hflag happlied hsince
  refine ⟨builtAt_waits hwaits, _, exec_tick s, hflag, happlied, hsince, ?_⟩
  by_cases hgate : s.cfg.minTicksBetweenSend ≤ s.ticksSinceLastSend + 1 ∧ (atSend s).q.contents s.cfg.qCap ≠ []
  · obtain ⟨hone, -⟩ := hsends hgate
    obtain ⟨c, rfl⟩ := List.length_eq_one_iff.mp hone
    rw [atSend_waits hwaits] at hsplit
    exact .inr ⟨c, hsplit⟩
  · obtain ⟨hnone, -⟩ := hsilent hgate
    rw [hnone, atSend_waits hwaits] at hsplit
    exact .inl hsplit.symm

theorem lastN_of_succ {α : Type} {k : Nat} {l : List α} (h : l.length = k + 1) : lastN k l = l.tail := by
  rw [lastN, h, Nat.add_sub_cancel_left, List.drop_one]

/-- Settles O39: of the entries and the three commands of the batch, one more than the queue holds, it keeps all but
the oldest. -/
theorem lowerBandBatchEvictsOldest : Obligations.LowerBandBatchEvictsOldest := by
  intro s h hacts hlow hroom hearly
  obtain ⟨⟨-, -, -, -, -, hfloor, hvolts⟩, -⟩ := id h
  have hsilent : tickStages s = atSend s := tickStages_silent fun hgate => absurd hgate.1 (by omega)
  have hlength := contents_length s.cfg.qCap s.q
  have hqueue := contents_atSend h
  rw [builtAt_acts hacts, buildBatch_of_lt hlow, lastN_of_succ (by simp; omega)] at hqueue
  refine ⟨_, _, _, exec_tick s, fxOfNat_toInt hfloor, fxOfNat_toInt hvolts, fun hcap => ?_, fun hcap => ?_⟩
  · rw [respond_q, hsilent, hqueue, List.tail_append_of_ne_nil]
    exact List.ne_nil_of_length_pos (by omega)
  · have hempty : s.q.contents s.cfg.qCap = [] := List.eq_nil_of_length_eq_zero (by omega)
    rw [respond_q, hsilent, hqueue, hempty]
    rfl

/-! ## Ticks between two sends (R170) -/

theorem OpEffect.keeps_sending {i : Instr} {s t : State} (h : OpEffect s i t) (hi : i ≠ .tick) :
    t.textOut = s.textOut ∧ t.ticksSinceLastSend = s.ticksSinceLastSend := by
  cases h with
  | query | badOperand | capture | push | enq | deq => exact ⟨rfl, rfl⟩
  | tick => exact absurd rfl hi

/-- A tick before the send counter's top only counts. -/
theorem tickStages_early {s : State} (h : s.ticksSinceLastSend + 1 < s.cfg.minTicksBetweenSend) :
    (tickStages s).textOut = s.textOut ∧ (tickStages s).ticksSinceLastSend = s.ticksSinceLastSend + 1 := by
  rw [tickStages_silent fun hgate => absurd hgate.1 (by omega)]
  exact ⟨atSend_textOut s, (atSend_ticksSinceLastSend s).trans (min_eq_left h.le)⟩

/-- One operation, from a state whose send counter stays short of its top through it. -/
theorem exec_before_send {i : Instr} {s t : State} (hexec : exec i s = .next t)
    (h : s.ticksSinceLastSend + ticksIn [i] < max s.cfg.minTicksBetweenSend 1) :
    t.textOut = s.textOut ∧ t.ticksSinceLastSend = s.ticksSinceLastSend + ticksIn [i] := by
  by_cases hi : i = .tick
  · subst hi
    have hone : ticksIn [.tick] = 1 := rfl
    cases hexec
    rw [hone] at h ⊢
    exact tickStages_early (by omega)
  · have hnone : ticksIn [i] = 0 := by simp [ticksIn, hi]
    rw [hnone]
    exact (OpEffect.of_exec hexec).keeps_sending hi

theorem ticksIn_cons (i : Instr) (ops : List Instr) : ticksIn (i :: ops) = ticksIn [i] + ticksIn ops := by
  rw [ticksIn, ← List.singleton_append, List.countP_append]; rfl

/-- While the ticks stay short of the top nothing is sent, and the send counter counts them. -/
theorem runOps_before_send (ops : List Instr) (s : State)
    (h : s.ticksSinceLastSend + ticksIn ops < max s.cfg.minTicksBetweenSend 1) :
    ∃ t, runOps ops s = .next t ∧ t.cfg = s.cfg ∧ t.textOut = s.textOut ∧
      t.ticksSinceLastSend = s.ticksSinceLastSend + ticksIn ops := by
  induction ops generalizing s with
  | nil => exact ⟨s, rfl, rfl, rfl, rfl⟩
  | cons i rest ih =>
    rw [ticksIn_cons] at h ⊢
    obtain ⟨u, hexec, -⟩ := exec_effect i s
    have hcfg := exec_keeps_cfg hexec
    obtain ⟨htexts, hcounter⟩ := exec_before_send hexec (by omega)
    obtain ⟨t, hrun, hcfg', htexts', hcounter'⟩ := ih u (by rw [hcfg]; omega)
    refine ⟨t, ?_, hcfg'.trans hcfg, htexts'.trans htexts, by omega⟩
    rw [runOps, hexec]
    exact hrun

/-- Settles O41: sending clears the send counter, which then counts the ticks up to the top. -/
theorem sendsAreSpaced : Obligations.SendsAreSpaced := by
  refine ⟨fun s t hexec hsent => ?_, fun _ => rfl, fun s ops hzero hshort => ?_⟩
  · cases hexec
    by_cases hgate : s.cfg.minTicksBetweenSend ≤ s.ticksSinceLastSend + 1 ∧ 0 < (atSend s).q.count
    · obtain ⟨c, q, -, hsends⟩ := tickStages_sending hgate
      rw [hsends]
      exact ⟨rfl, c, rfl⟩
    · rw [tickStages_silent hgate] at hsent
      exact absurd (atSend_textOut s) hsent
  · obtain ⟨t, hrun, hcfg, htexts, hcounter⟩ := runOps_before_send ops s (by omega)
    refine ⟨t, hrun, htexts, fun hlast hwaiting => ?_⟩
    obtain ⟨c, q, -, hsends⟩ := tickStages_sending (s := t) ⟨by rw [hcfg]; omega, atSend_count_pos hwaiting⟩
    exact ⟨_, c, exec_tick t, by rw [hsends]; rfl⟩

end Sys2Proof.Machine
end

section
/-! SUPPORT. The output flag and the `OutputOn` and `OutputOff` that the policy builds (42_policy.md R166, R173, R174):
each batch takes the flag to what its last switch says, and holds `OutputOn` only while the flag is 0; so a run does. -/

namespace Sys2Proof.Machine

/-! ## The flag that some commands leave -/

/-- The output flag after these commands are built, from `enabled` before them (R174). -/
def flagAfter (enabled : Bool) (cs : List PsuCommand) : Bool :=
  ((switches cs).getLast?.map (· == .outputOn)).getD enabled

theorem flagAfter_append (enabled : Bool) (xs ys : List PsuCommand) :
    flagAfter enabled (xs ++ ys) = flagAfter (flagAfter enabled xs) ys := by
  simp only [flagAfter, switches, List.filter_append, List.getLast?_append]
  cases (ys.filter fun c => c == .outputOn || c == .outputOff).getLast? with
  | none | some c => rfl

theorem flagAfter_cons (enabled : Bool) (c : PsuCommand) (cs : List PsuCommand) :
    flagAfter enabled (c :: cs) = flagAfter (flagAfter enabled [c]) cs :=
  flagAfter_append enabled [c] cs

/-- Commands without an `OutputOff` leave a flag that was 1 at 1. -/
theorem flagAfter_true_of_no_off {cs : List PsuCommand} (h : .outputOff ∉ cs) : flagAfter true cs = true := by
  rw [flagAfter]
  cases hlast : (switches cs).getLast? with
  | none => rfl
  | some c =>
    obtain ⟨hbuilt, hswitch⟩ := List.mem_filter.mp (List.mem_of_getLast? hlast)
    rw [Bool.or_eq_true, beq_iff_eq, beq_iff_eq] at hswitch
    obtain rfl | rfl := hswitch
    · rfl
    · exact absurd hbuilt h

/-! ## `OutputOn` only while the flag is 0 -/

/-- Every `OutputOn` among the commands is built while the flag is 0, from `enabled` before them. -/
def OnOnlyWhenOff (enabled : Bool) (cs : List PsuCommand) : Prop :=
  match cs with
  | [] => True
  | c :: rest => (c = .outputOn → enabled = false) ∧ OnOnlyWhenOff (flagAfter enabled [c]) rest

theorem onOnlyWhenOff_append (enabled : Bool) (xs ys : List PsuCommand) :
    OnOnlyWhenOff enabled (xs ++ ys) ↔ OnOnlyWhenOff enabled xs ∧ OnOnlyWhenOff (flagAfter enabled xs) ys := by
  induction xs generalizing enabled with
  | nil => exact (and_iff_right trivial).symm
  | cons c xs ih => rw [List.cons_append, OnOnlyWhenOff, OnOnlyWhenOff, ih, flagAfter_cons enabled c xs, and_assoc]

/-- Between two `OutputOn` that are each built while the flag is 0 there is an `OutputOff`. -/
theorem off_between_ons {enabled : Bool} {before between after : List PsuCommand}
    (h : OnOnlyWhenOff enabled (before ++ [.outputOn] ++ between ++ [.outputOn] ++ after)) :
    .outputOff ∈ between := by
  simp only [onOnlyWhenOff_append] at h
  obtain ⟨⟨-, hsecond, -⟩, -⟩ := h
  by_contra hnone
  rw [flagAfter_append, flagAfter_append] at hsecond
  exact Bool.noConfusion ((flagAfter_true_of_no_off hnone).symm.trans (hsecond rfl))

/-! ## Batches, operations and runs -/

/-- A batch holds `OutputOn` only as its first command, and only when the flag was 0. -/
theorem buildBatch_onOnlyWhenOff (c : Config) (enabled : Bool) (duty : DutySample) :
    OnOnlyWhenOff enabled (buildBatch c enabled duty) := by
  by_cases hlow : duty.val < 10
  · rw [buildBatch_of_lt hlow]
    exact ⟨nofun, nofun, nofun, trivial⟩
  · rw [buildBatch_of_ge (by omega) rfl]
    cases enabled with
    | false => exact ⟨fun _ => rfl, nofun, trivial⟩
    | true => exact ⟨nofun, trivial⟩

/-- The flag of R166 is what the batch's own switches leave. -/
theorem flagAfter_buildBatch (c : Config) (enabled : Bool) (duty : DutySample) :
    flagAfter enabled (buildBatch c enabled duty) = outputEnabledFor duty := by
  by_cases hlow : duty.val < 10
  · rw [buildBatch_of_lt hlow, outputEnabledFor_of_lt hlow]; rfl
  · rw [buildBatch_of_ge (by omega) rfl, outputEnabledFor_of_ge (by omega)]
    cases enabled with
    | false | true => rfl

theorem builtAt_onOnlyWhenOff (s : State) : OnOnlyWhenOff s.outputEnabled (builtAt s) := by
  cases hacts : actsAt s with
  | true => rw [builtAt_acts hacts]; exact buildBatch_onOnlyWhenOff _ _ _
  | false => rw [builtAt_waits hacts]; trivial

theorem tickStages_outputEnabled (s : State) :
    (tickStages s).outputEnabled = flagAfter s.outputEnabled (builtAt s) := by
  obtain ⟨hflag, -⟩ := tickStages_keeps_decision s
  rw [hflag]
  cases hacts : actsAt s with
  | true => rw [atSend_acts hacts, builtAt_acts hacts, flagAfter_buildBatch]
  | false => rw [atSend_waits hacts, builtAt_waits hacts]; rfl

/-- The commands that one operation builds: those of a TICK. -/
def builtBy (i : Instr) (s : State) : List PsuCommand := if i = .tick then builtAt s else []

theorem builtIn_cons {i : Instr} {rest : List Instr} {s t : State} (h : exec i s = .next t) :
    builtIn (i :: rest) s = builtBy i s ++ builtIn rest t := by
  rw [builtIn, h]; rfl

theorem runOps_cons {i : Instr} {rest : List Instr} {s t : State} (h : exec i s = .next t) :
    runOps (i :: rest) s = runOps rest t := by
  rw [runOps, h]

/-- Only TICK writes the flag. -/
theorem exec_outputEnabled {i : Instr} {s t : State} (hexec : exec i s = .next t) :
    t.outputEnabled = flagAfter s.outputEnabled (builtBy i s) := by
  by_cases hi : i = .tick
  · subst hi
    cases hexec
    exact tickStages_outputEnabled s
  · rw [builtBy, if_neg hi]
    cases OpEffect.of_exec hexec with
    | query | badOperand | capture | push | enq | deq => rfl
    | tick => exact absurd rfl hi

theorem builtBy_onOnlyWhenOff (i : Instr) (s : State) : OnOnlyWhenOff s.outputEnabled (builtBy i s) := by
  rw [builtBy]
  split
  · exact builtAt_onOnlyWhenOff s
  · trivial

/-- A run builds `OutputOn` only while the flag is 0, and leaves the flag that the commands it built say. -/
theorem runOps_flag (ops : List Instr) (s : State) : OnOnlyWhenOff s.outputEnabled (builtIn ops s) ∧
    ∃ t, runOps ops s = .next t ∧ t.outputEnabled = flagAfter s.outputEnabled (builtIn ops s) := by
  induction ops generalizing s with
  | nil => exact ⟨trivial, s, rfl, rfl⟩
  | cons i rest ih =>
    obtain ⟨u, hexec, -⟩ := exec_effect i s
    obtain ⟨hons, t, hrun, hflag⟩ := ih u
    rw [exec_outputEnabled hexec] at hons hflag
    rw [builtIn_cons hexec, runOps_cons hexec, onOnlyWhenOff_append, flagAfter_append]
    exact ⟨⟨builtBy_onOnlyWhenOff i s, hons⟩, t, hrun, hflag⟩

/-- Settles O43: the flag after the run is what the last switch built left. -/
theorem flagFollowsLastSwitchBuilt : Obligations.FlagFollowsLastSwitchBuilt := by
  refine ⟨fun ops s t hrun => ?_, fun _ => rfl⟩
  obtain ⟨-, u, hrun', hflag⟩ := runOps_flag ops s
  cases hrun.symm.trans hrun'
  rw [hflag, flagAfter]
  cases (switches (builtIn ops s)).getLast? with
  | none | some c => rfl

theorem outputOn_mem_buildBatch {c : Config} {enabled : Bool} {duty : DutySample}
    (h : .outputOn ∈ buildBatch c enabled duty) : enabled = false := by
  by_cases hlow : duty.val < 10
  · simp [buildBatch_of_lt hlow] at h
  · rw [buildBatch_of_ge (by omega) rfl] at h
    simpa using h

/-- Settles O42: a batch holds `OutputOn` only when the flag was 0, and a run's first `OutputOn` sets the flag, which
only an `OutputOff` clears. -/
theorem outputOnIsBuiltOnceUntilOutputOff : Obligations.OutputOnIsBuiltOnceUntilOutputOff := by
  refine ⟨fun s hon => ?_, fun s henabled hacts hband => ?_, fun ops s before between after hbuilt => ?_⟩
  · cases hacts : actsAt s with
    | true => rw [builtAt_acts hacts] at hon; exact outputOn_mem_buildBatch hon
    | false => rw [builtAt_waits hacts] at hon; cases hon
  · rw [builtAt_acts hacts, buildBatch_of_ge hband rfl, henabled]
    exact ⟨_, rfl⟩
  · obtain ⟨hons, -⟩ := runOps_flag ops s
    rw [hbuilt] at hons
    exact off_between_ons hons

end Sys2Proof.Machine
end

section
/-! SUPPORT. A block that sees one duty from reset on (42_policy.md R175): the window fills with it, the policy waits
until the window is full, and the first decision switches the output on. -/

namespace Sys2Proof.Machine

/-! ## Runs of ticks -/

theorem runOps_append {xs ys : List Instr} {s t : State} (h : runOps xs s = .next t) :
    runOps (xs ++ ys) s = runOps ys t ∧ builtIn (xs ++ ys) s = builtIn xs s ++ builtIn ys t := by
  induction xs generalizing s with
  | nil => cases h; exact ⟨rfl, rfl⟩
  | cons i xs ih =>
    obtain ⟨u, hexec, -⟩ := exec_effect i s
    rw [runOps_cons hexec] at h
    obtain ⟨hrun, hbuilt⟩ := ih h
    rw [List.cons_append, runOps_cons hexec, builtIn_cons hexec, builtIn_cons hexec, List.append_assoc]
    exact ⟨hrun, congrArg _ hbuilt⟩

/-- One more tick after a run. -/
theorem runOps_succ_tick {k : Nat} {s t : State} (h : runOps (List.replicate k .tick) s = .next t) :
    runOps (List.replicate (k + 1) .tick) s = .next (respond .poll .unit (tickStages t)) ∧
    builtIn (List.replicate (k + 1) .tick) s = builtIn (List.replicate k .tick) s ++ builtAt t := by
  obtain ⟨hrun, hbuilt⟩ := runOps_append (ys := [.tick]) h
  rw [List.replicate_succ']
  refine ⟨hrun, hbuilt.trans (congrArg _ ?_)⟩
  rw [builtIn_cons (exec_tick t)]
  exact List.append_nil _

/-! ## A window of one value -/

theorem stable_iff_count {s : State} {d : DutySample} (h : s.Inv)
    (hheld : s.win.recent s.cfg.n = List.replicate s.win.count d) : stable s = true ↔ s.win.count = s.cfg.n := by
  obtain ⟨-, hwin, -⟩ := h
  rw [stable, allSame_recent hwin, recent_length, hheld]
  refine and_iff_left fun x hx y hy => ?_
  rw [List.eq_of_mem_replicate hx, List.eq_of_mem_replicate hy]

theorem quotient_of_recent_replicate {n : Nat} {w : Window} {d : DutySample} (hw : WindowOk n w)
    (hpos : 0 < w.count) (hheld : w.recent n = List.replicate w.count d) : w.sum / w.count = d.val := by
  rw [sum_recent hw, hheld, List.map_replicate, List.sum_replicate, smul_eq_mul, Nat.mul_div_cancel_left _ hpos]

/-! ## The ticks before the first decision -/

/-- A block of `c` whose first `k` ticks each saw the duty `d` and built nothing. -/
structure Filling (c : Config) (d : DutySample) (k : Nat) (s : State) : Prop where
  inv : s.Inv
  cfg : s.cfg = c
  sample : s.sample = d
  held : s.win.recent c.n = List.replicate k d
  applied : s.lastAppliedDuty = 0
  flag : s.outputEnabled = false
  since : s.ticksSinceLastUpdate = k
  queue : s.q.contents c.qCap = []
  texts : s.textOut = []

section
variable {c : Config} {d : DutySample} {k : Nat} {s : State}

theorem filling_reset (hc : c.Valid) : Filling c d 0 { State.resetWith c with sample := d } :=
  ⟨resetWith_inv hc, rfl, rfl, rfl, rfl, rfl, rfl, rfl, rfl⟩

theorem Filling.count_eq (h : Filling c d k s) : s.win.count = k := by
  rw [← recent_length c.n, h.held, List.length_replicate]

theorem Filling.q_count_eq (h : Filling c d k s) : s.q.count = 0 := by
  rw [← contents_length c.qCap, h.queue, List.length_nil]

/-- The window after the push of the next tick holds one more of the same. -/
theorem Filling.held_push (h : Filling c d k s) (hk : k < c.n) :
    (s.win.push c.n s.sample).recent c.n = List.replicate (k + 1) d := by
  obtain ⟨-, hwin, -⟩ := h.inv
  rw [h.cfg] at hwin
  rw [recent_push _ hwin, h.held, h.sample, ← List.replicate_succ', lastN_of_le (by simpa using hk)]

theorem Filling.count_push (h : Filling c d k s) (hk : k < c.n) : (s.win.push c.n s.sample).count = k + 1 := by
  rw [push_count, h.count_eq]
  omega

theorem Filling.stable_iff (h : Filling c d k s) (hk : k < c.n) :
    stable (atDecision s) = true ↔ k + 1 = c.n := by
  have hwin : (atDecision s).win = s.win.push c.n s.sample := by rw [← h.cfg]; rfl
  rw [stable_iff_count (d := d) (atDecision_inv h.inv), hwin, atDecision_cfg, h.cfg, h.count_push hk]
  rw [hwin, atDecision_cfg, h.cfg, h.held_push hk, h.count_push hk]

/-- The duty of the next tick is the one seen, whichever the source. -/
theorem Filling.duty_eq (h : Filling c d k s) (hk : k < c.n) : dutyAtTick s = d := by
  cases hsource : s.cfg.dutySource with
  | latest => rw [dutyAtTick_latest hsource, h.sample]
  | average =>
    obtain ⟨-, hwin, -⟩ := h.inv
    have hpush := push_ok s.sample hwin
    have hcount := h.count_push hk
    apply Fin.ext
    rw [dutyAtTick_average h.inv hsource]
    rw [h.cfg] at hpush ⊢
    exact quotient_of_recent_replicate hpush (by omega) (by rw [h.held_push hk, hcount])

theorem Filling.waits (h : Filling c d k s) (hk : k + 1 < c.n) (htop : c.n ≤ c.maxTicksBetweenUpdate) :
    actsAt s = false := by
  rw [← Bool.not_eq_true, actsAt_iff, h.stable_iff (by omega), overdue_atDecision, h.cfg, h.since]
  rintro ⟨hfull | hlate, -⟩ <;> omega

/-- A tick that does not fill the window builds and sends nothing. -/
theorem Filling.tick (h : Filling c d k s) (hk : k + 1 < c.n) (htop : c.n ≤ c.maxTicksBetweenUpdate) :
    Filling c d (k + 1) (respond .poll .unit (tickStages s)) := by
  have hwaits := atSend_waits (h.waits hk htop)
  have hq : (atSend s).q = s.q := by rw [hwaits]; rfl
  have hsilent : tickStages s = atDecision s := by
    rw [tickStages_silent, hwaits]
    rw [hq, h.q_count_eq]
    omega
  rw [hsilent]
  refine ⟨atDecision_inv h.inv, h.cfg, h.sample, ?_, h.applied, h.flag, ?_, h.queue, h.texts⟩
  · rw [← h.held_push (by omega), ← h.cfg]; rfl
  · have hsince : (atDecision s).ticksSinceLastUpdate = min (k + 1) c.maxTicksBetweenUpdate := by
      rw [← h.since, ← h.cfg]; rfl
    exact hsince.trans (min_eq_left (by omega))

theorem runOps_filling (hc : c.Valid) (htop : c.n ≤ c.maxTicksBetweenUpdate) (hk : k < c.n) :
    ∃ t, runOps (List.replicate k .tick) { State.resetWith c with sample := d } = .next t ∧
      builtIn (List.replicate k .tick) { State.resetWith c with sample := d } = [] ∧ Filling c d k t := by
  induction k with
  | zero => exact ⟨_, rfl, rfl, filling_reset hc⟩
  | succ k ih =>
    obtain ⟨t, hrun, hbuilt, hfilling⟩ := ih (by omega)
    obtain ⟨hrun', hbuilt'⟩ := runOps_succ_tick hrun
    rw [hbuilt, builtAt_waits (hfilling.waits hk htop)] at hbuilt'
    exact ⟨_, hrun', hbuilt', hfilling.tick hk htop⟩

/-! ## The first decision -/

/-- The tick that fills the window acts, on a duty other than 0. -/
theorem Filling.acts (h : Filling c d k s) (hk : k + 1 = c.n) (hd : d ≠ 0) (hcap : 2 ≤ c.qCap) :
    actsAt s = true := by
  have hduty := h.duty_eq (by omega)
  rw [actsAt_iff, h.stable_iff (by omega), hduty, h.applied, h.q_count_eq, h.cfg]
  exact ⟨.inl hk, .inl hd, by omega⟩

/-- What the first tick that acts leaves: the batch is in the queue and the texts, in order. -/
theorem Filling.first_decision (h : Filling c d k s) (hk : k + 1 = c.n) (hd : d ≠ 0) (hcap : 2 ≤ c.qCap)
    (hbatch : (buildBatch c false d).length ≤ c.qCap) :
    builtAt s = buildBatch c false d ∧
    (tickStages s).outputEnabled = outputEnabledFor d ∧ (tickStages s).lastAppliedDuty = d ∧
    (tickStages s).ticksSinceLastUpdate = 0 ∧
    (tickStages s).textOut ++ ((tickStages s).q.contents c.qCap).map serialize =
      (buildBatch c false d).map serialize := by
  have hacts := h.acts hk hd hcap
  have hduty := h.duty_eq (by omega)
  have hbuilt : builtAt s = buildBatch c false d := by rw [builtAt_acts hacts, h.cfg, h.flag, hduty]
  have hqueue : (atSend s).q.contents c.qCap = buildBatch c false d := by
    rw [← lastN_of_le hbatch, ← hbuilt, ← h.cfg, contents_atSend h.inv, h.cfg, h.queue, List.nil_append]
  obtain ⟨hflag, happlied, hsince⟩ := tickStages_keeps_decision s
  obtain ⟨sent, htexts, hsplit, -⟩ := tickStages_sends h.inv
  rw [atSend_acts hacts, hduty] at hflag happlied hsince
  rw [h.cfg, hqueue] at hsplit
  refine ⟨hbuilt, hflag, happlied, hsince, ?_⟩
  rw [htexts, h.texts, hsplit, List.map_append, List.nil_append]

end

/-- Settles O44: the window fills with 50 for `N - 1` ticks, and the `N`-th builds the batch of the middle band from a
flag of 0. -/
theorem heldDutyTurnsOutputOn : Obligations.HeldDutyTurnsOutputOn := by
  intro c hc hcap htop hmax
  have hlast : c.n - 1 + 1 = c.n := by obtain ⟨⟨hn, -⟩, -⟩ := id hc; omega
  have hband : bandCurrent c 50 = 2000 := by rw [bandCurrent, hmax]; rfl
  have hbatch : buildBatch c false 50 = [.outputOn, .setCurrent 2000#32] := buildBatch_of_ge (by decide) hband
  have htexts : [PsuCommand.outputOn, .setCurrent 2000#32].map serialize = [ascii "OUT1", ascii "ISET1:2.00"] := by
    decide
  obtain ⟨s, hrun, hnone, hfilling⟩ := runOps_filling (d := 50) hc htop (show c.n - 1 < c.n by omega)
  obtain ⟨hrunN, hbuiltN⟩ := runOps_succ_tick hrun
  obtain ⟨hbuilt, hflag, happlied, hsince, hwire⟩ :=
    hfilling.first_decision hlast (by decide) hcap (by rw [hbatch]; exact hcap)
  rw [hlast] at hrunN hbuiltN
  rw [hnone, hbuilt, hbatch] at hbuiltN
  rw [hbatch, htexts] at hwire
  refine ⟨fun k hk => ?_, hbuiltN, _, hrunN, hflag, happlied, hsince, hwire⟩
  obtain ⟨_, -, hnone, -⟩ := runOps_filling (d := 50) hc htop hk
  exact hnone

end Sys2Proof.Machine
end

section
/-! SUPPORT. The CommandQueue (43_queue.md): what ENQ, DEQ and the queries do, and the laws of eviction, order and
capacity over lists of operations. -/

namespace Sys2Proof.Machine

/-! ## ENQ (R190) -/

theorem exec_enq_command (c : PsuCommand) (s : State) :
    exec (.enq c.tag c.val) s = .next (respond .poll .unit (enqueueCommand c s)) := by
  rw [exec, execEnq, commandOperand_eq_some.mpr ⟨rfl, rfl⟩]

/-- ENQ by its two parts: a full queue loses its oldest entry, then the command comes last. -/
theorem contents_enqueue_evicting {cap : Nat} {q : CommandQueue} (c : PsuCommand) (hq : QueueOk cap q) :
    (q.enqueue cap c).contents cap = (if q.count = cap then (q.contents cap).tail else q.contents cap) ++ [c] := by
  obtain ⟨hok, hroom⟩ := evict_ok hq
  rw [CommandQueue.enqueue, contents_append c hok hroom, contents_evict]

/-- Settles O46: the operands of a command are appended, and those of none take the fault. -/
theorem enqueueAppendsNewest : Obligations.EnqueueAppendsNewest := by
  intro s tag val hinv
  obtain ⟨-, -, hq, -⟩ := hinv
  obtain ⟨-, hbad⟩ := badOperandsTakeFault
  constructor
  · rintro c rfl rfl
    exact ⟨_, exec_enq_command c s, contents_enqueue_evicting c hq⟩
  · intro htag hval
    obtain ⟨hfault, -⟩ := hbad s tag val htag hval
    exact hfault

/-! ## DEQ (R191) -/

theorem exec_deq_empty {s : State} (hempty : s.q.contents s.cfg.qCap = []) :
    exec .deq s = .next (respond .poll (.optCmd none) s) := by
  rw [exec, execDeq, dequeue_none.mpr hempty]

theorem exec_deq_oldest {s : State} {c : PsuCommand} {rest : List PsuCommand} (hq : QueueOk s.cfg.qCap s.q)
    (hentries : s.q.contents s.cfg.qCap = c :: rest) :
    ∃ q, exec .deq s = .next (respond .poll (.optCmd (some c)) { s with q := q }) ∧
      q.contents s.cfg.qCap = rest ∧ QueueOk s.cfg.qCap q := by
  cases hdeq : s.q.dequeue s.cfg.qCap with
  | none => cases hentries.symm.trans (dequeue_none.mp hdeq)
  | some taken =>
    obtain ⟨d, q⟩ := taken
    obtain ⟨htaken, hok⟩ := dequeue_some hq hdeq
    obtain ⟨rfl, rfl⟩ := List.cons.inj (htaken.symm.trans hentries)
    exact ⟨q, by rw [exec, execDeq, hdeq], rfl, hok⟩

/-- Settles O47: the two cases of DEQ are those of the list of entries. -/
theorem dequeueTakesOldest : Obligations.DequeueTakesOldest := by
  intro s hinv
  obtain ⟨-, -, hq, -⟩ := hinv
  refine ⟨exec_deq_empty, fun c rest hentries => ?_⟩
  obtain ⟨q, hexec, hrest, -⟩ := exec_deq_oldest hq hentries
  exact ⟨q, hexec, hrest⟩

/-! ## The queries (R192 to R195) -/

/-- Settles O50: each query only answers, and reads the count and the capacity alone. -/
theorem queueQueriesAnswer : Obligations.QueueQueriesAnswer :=
  fun _ => ⟨rfl, rfl, rfl, rfl⟩

/-! ## A list of ENQs (R197) -/

/-- ENQs one after another leave the queue of the batch, and answer unit for each. -/
theorem runOps_enqs (cs : List PsuCommand) (s : State) :
    runOps (cs.map fun c => .enq c.tag c.val) s =
      .next { enqueueBatch cs s with respOut := s.respOut ++ List.replicate cs.length ⟨.poll, .unit⟩ } := by
  induction cs generalizing s with
  | nil => rw [List.length_nil, List.replicate_zero, List.append_nil]; rfl
  | cons c cs ih =>
    rw [List.map_cons, runOps_cons (exec_enq_command c s), ih, enqueueBatch_eq, enqueueBatch_eq, List.length_cons,
      List.replicate_succ, respond_respOut, List.append_assoc]
    rfl

/-- Settles O48: the batch's entries are the last `Q_CAP` of all, and the count is how many those are. -/
theorem enqueuesKeepNewest : Obligations.EnqueuesKeepNewest := by
  intro s cs hinv
  obtain ⟨-, -, hq, -⟩ := hinv
  have hnewest : (enqueueBatch cs s).q.contents s.cfg.qCap = lastN s.cfg.qCap (s.q.contents s.cfg.qCap ++ cs) := by
    rw [enqueueBatch_eq]
    exact contents_foldl_enqueue cs hq
  have hcount : (enqueueBatch cs s).q.count = min s.cfg.qCap (s.q.count + cs.length) := by
    rw [← contents_length s.cfg.qCap, hnewest, lastN_length, List.length_append, contents_length]
  exact ⟨_, runOps_enqs cs s, hnewest, hcount⟩

/-! ## A list of DEQs (R196) -/

/-- One DEQ per entry answers the entries from the oldest on and empties the queue. -/
theorem runOps_deqs {entries : List PsuCommand} {s : State} (hq : QueueOk s.cfg.qCap s.q)
    (hentries : s.q.contents s.cfg.qCap = entries) :
    ∃ t, runOps (List.replicate entries.length .deq) s = .next t ∧ t.q.count = 0 ∧
      t.respOut = s.respOut ++ entries.map fun c => ⟨.poll, .optCmd (some c)⟩ := by
  induction entries generalizing s with
  | nil => exact ⟨s, rfl, (lists_fifo_eq_nil s).mp hentries, (List.append_nil _).symm⟩
  | cons c rest ih =>
    obtain ⟨q, hexec, hrest, hok⟩ := exec_deq_oldest hq hentries
    obtain ⟨t, hrun, hempty, hresp⟩ := ih (s := respond .poll (.optCmd (some c)) { s with q := q }) hok hrest
    refine ⟨t, ?_, hempty, ?_⟩
    · rw [List.length_cons, List.replicate_succ, runOps_cons hexec, hrun]
    · rw [hresp, respond_respOut, List.append_assoc]; rfl

/-- Settles O49: the queue holds as many entries as its count says. -/
theorem dequeuesReturnEntriesInOrder : Obligations.DequeuesReturnEntriesInOrder := by
  intro s hinv
  obtain ⟨-, -, hq, -⟩ := hinv
  have hdrained := runOps_deqs hq rfl
  rwa [contents_length] at hdrained

/-! ## Any operations from reset (R198) -/

/-- What every operation keeps, every list of operations keeps. -/
theorem runOps_keeps {P : State → Prop} (hkeeps : ∀ i s t, exec i s = .next t → P s → P t) {ops : List Instr}
    {s t : State} (hrun : runOps ops s = .next t) (hs : P s) : P t := by
  induction ops generalizing s with
  | nil => cases hrun; exact hs
  | cons i rest ih =>
    obtain ⟨u, hexec, -⟩ := exec_effect i s
    rw [runOps_cons hexec] at hrun
    exact ih hrun (hkeeps i s u hexec hs)

theorem runOps_keeps_inv {ops : List Instr} {s t : State} (hrun : runOps ops s = .next t) (hs : s.Inv) : t.Inv :=
  runOps_keeps (fun _ _ _ hexec => (OpEffect.of_exec hexec).keeps_inv) hrun hs

theorem runOps_keeps_cfg {ops : List Instr} {s t : State} (hrun : runOps ops s = .next t) : t.cfg = s.cfg :=
  runOps_keeps (P := fun u => u.cfg = s.cfg) (fun _ _ _ hexec hu => (exec_keeps_cfg hexec).trans hu) hrun rfl

/-- Settles O51: the invariant, which every run from reset keeps, bounds the count by the capacity. -/
theorem spaceAndLenAddToCapacity : Obligations.SpaceAndLenAddToCapacity := by
  intro c ops t hc hrun
  obtain ⟨-, -, ⟨-, -, hcount⟩, -⟩ := runOps_keeps_inv hrun (resetWith_inv hc)
  obtain rfl : t.cfg = c := runOps_keeps_cfg hrun
  obtain ⟨hspace, hlen, -⟩ := queueQueriesAnswer t
  exact ⟨_, _, hspace, hlen, Nat.sub_add_cancel hcount⟩

end Sys2Proof.Machine
end

section
/-! SUPPORT. The encoder (44_encoder.md): what the number text of R211 is made of, what FMT and SER answer, and why the
truncation of the middle band's current changes no text. -/

namespace Sys2Proof.Machine

/-! ## The number text (R211, R212) -/

/-- "The decimal digits of `n` with no leading zero; `dec(0) = "0"`" (00_scope.md R14). -/
theorem dec_eq_zero_of_head {n : Nat} (h : (dec n).head? = some 0x30#8) : dec n = [0x30#8] := by
  obtain ⟨b, rest, hdec, hzero⟩ := dec_head n
  rw [hdec, List.head?_cons, Option.some.injEq] at h
  rw [hzero h]; rfl

theorem dec_ne_nil (n : Nat) : dec n ≠ [] := by
  obtain ⟨b, rest, hdec, -⟩ := dec_head n
  exact hdec ▸ List.cons_ne_nil b rest

/-- The last two decimal digits of a number, as the bytes of R104. -/
theorem dig2_values (n : Nat) : ∃ tens ones : Byte,
    dig2 (n % 100) = [tens, ones] ∧ tens.toNat = 48 + n % 100 / 10 ∧ ones.toNat = 48 + n % 10 := by
  have htens : n % 100 / 10 < 10 := by omega
  have hones : n % 100 % 10 = n % 10 := Nat.mod_mod_of_dvd n (by decide)
  refine ⟨_, _, rfl, digitChar_toNat htens, ?_⟩
  rw [hones, digitChar_toNat (Nat.mod_lt n (by decide))]

/-- The number text with its sign and its point as the byte values of R104. -/
theorem fmt_bytes (raw : Int) : fmt raw = (if raw < 0 then [0x2D#8] else []) ++ dec (hundredths raw.natAbs / 100) ++
    0x2E#8 :: dig2 (hundredths raw.natAbs % 100) := by
  have hsign : ascii "-" = [0x2D#8] := by decide
  have hpoint : ascii "." = [0x2E#8] := by decide
  rw [fmt, hsign, hpoint, List.append_assoc, List.singleton_append]

/-- A value that is not negative has no sign. -/
theorem fmt_natCast (n : Nat) :
    fmt n = dec (hundredths n / 100) ++ ascii "." ++ dig2 (hundredths n % 100) := by
  rw [fmt, if_neg (by omega), List.nil_append, Int.natAbs_natCast]

/-! ## FMT (R210) -/

theorem exec_fmt (val : Fx) (s : State) : exec (.fmt val) s = .next (respond .poll (.text (fmt val.toInt)) s) := rfl

/-- Settles O52: the integer part is a decimal text, with the laws of one, and the two digits after the point are the
tens and the ones of the hundredths. -/
theorem formatWritesRoundedHundredths : Obligations.FormatWritesRoundedHundredths := by
  intro s val
  obtain ⟨tens, ones, hdigits, htens, hones⟩ := dig2_values (hundredths val.toInt.natAbs)
  refine ⟨dec (hundredths val.toInt.natAbs / 100), tens, ones, ?_, dec_allDigits _, dec_ne_nil _, dec_eq_zero_of_head,
    dec_value _, htens, hones⟩
  rw [exec_fmt, fmt_bytes, hdigits]; rfl

/-! ## SER (R213, R214) -/

theorem exec_ser_command (c : PsuCommand) (s : State) :
    exec (.ser c.tag c.val) s = .next (respond .poll (.text (serialize c)) s) := by
  rw [exec, execSer, commandOperand_eq_some.mpr ⟨rfl, rfl⟩]

/-- Settles O53: SER answers the text of its command, and the keyword of each is the bytes of its ASCII literal. -/
theorem serializeAnswersCommandText : Obligations.SerializeAnswersCommandText := by
  intro s val
  have hcurrent : ascii "ISET1:" = [0x49#8, 0x53#8, 0x45#8, 0x54#8, 0x31#8, 0x3A#8] := by decide
  have hvoltage : ascii "VSET1:" = [0x56#8, 0x53#8, 0x45#8, 0x54#8, 0x31#8, 0x3A#8] := by decide
  refine ⟨exec_ser_command .outputOn s, exec_ser_command .outputOff s, ?_, ?_⟩
  · rw [← hcurrent]; exact exec_ser_command (.setCurrent val) s
  · rw [← hvoltage]; exact exec_ser_command (.setVoltage val) s

/-! ## The middle-band current (R215, R216) -/

/-- The reason R216 gives: `floor((floor(y) + 5) / 10) = floor((y + 5) / 10)`. -/
theorem hundredths_of_floor {y : ℚ} {n : Nat} (h : ⌊y⌋ = n) : (hundredths n : Int) = ⌊(y + 5) / 10⌋ := by
  calc (hundredths n : Int) = (⌊y⌋ + 5) / 10 := by rw [h, hundredths]; rfl
    _ = ⌊y + 5⌋ / 10 := by rw [Int.floor_add_ofNat]
    _ = ⌊(y + 5) / 10⌋ := (Int.floor_div_natCast (y + 5) 10).symm

/-- The truncation of R215, as the floor of the exact current in thousandths. -/
theorem floor_exactCurrent (currentMax : Nat) {d : Nat} (h : 10 ≤ d) :
    ⌊((d : ℚ) - 10) * currentMax / 80⌋ = currentOf currentMax d := by
  have hcast : ((d : ℚ) - 10) * currentMax = ((d - 10) * currentMax : Nat) := by push_cast [h]; rfl
  rw [hcast]
  exact Rat.floor_natCast_div_natCast _ 80

/-- Settles O55: the current fits FX, and the truncation of R215 is lost again in the rounding to hundredths. -/
theorem middleBandTextIsExact : Obligations.MiddleBandTextIsExact := by
  intro c d hc hlow hhigh
  obtain ⟨-, -, -, -, hmax, -, -⟩ := hc
  have hle : currentOf c.currentMax d ≤ c.currentMax := currentOf_le hhigh.le
  have hfx : (fxOfNat (currentOf c.currentMax d)).toInt = currentOf c.currentMax d := fxOfNat_toInt (hle.trans_lt hmax)
  have hexact : ((d : ℚ) - 10) / 80 * c.currentMax / 1000 * 100 + 1 / 2 =
      (((d : ℚ) - 10) * c.currentMax / 80 + 5) / 10 := by ring
  refine ⟨hfx, hle, hundredths (currentOf c.currentMax d), ?_, ?_⟩
  · rw [hexact, hundredths_of_floor (floor_exactCurrent c.currentMax hlow)]
  · rw [fxOperand, hfx, fmt_natCast]

end Sys2Proof.Machine
end

section
/-! SUPPORT. Exceptions (60_exceptions.md): a legal op word never faults (R232), a working block always has a next
state, and the one stop is the halt of a failed initialisation (R233). -/

namespace Sys2Proof.Machine

/-! ## Operands that are in range (R94) -/

theorem sampleOperand_of_wellFormed {b : BitVec 7} (hwf : (Instr.push b).wellFormed = true) :
    ∃ d, sampleOperand b = some d := by
  have hle : b.toNat ≤ 100 := by simpa [Instr.wellFormed] using hwf
  exact ⟨⟨b.toNat, by omega⟩, sampleOperand_eq_some.mpr rfl⟩

/-- Fields that R94 allows are those of a command. -/
theorem command_of_fieldsOk {tag : BitVec 2} {val : Fx} (hok : commandFieldsOk tag val = true) :
    ∃ c : PsuCommand, c.tag = tag ∧ c.val = val := by
  cases hc : commandOperand tag val with
  | some c => exact ⟨c, commandOperand_eq_some.mp hc⟩
  | none => cases hok.symm.trans (commandOperand_eq_none.mp hc)

/-! ## A legal op word never faults (R232) -/

/-- An operation whose operands are in range ends by answering on its own port, with a response that is no fault and
is its only one. -/
theorem exec_eq_respond_of_wellFormed {i : Instr} (hwf : i.wellFormed = true) (s : State) :
    ∃ v u, exec i s = .next (respond i.port v u) ∧ u.respOut = s.respOut ∧ ∀ c w, v ≠ .fault c w := by
  cases i with
  | capture ts => exact ⟨_, _, exec_capture ts s, rfl, nofun⟩
  | push b =>
    obtain ⟨d, hd⟩ := sampleOperand_of_wellFormed hwf
    exact ⟨.unit, pushSample d s, by rw [exec, execPush, hd]; rfl, rfl, nofun⟩
  | enq tag val =>
    obtain ⟨c, rfl, rfl⟩ := command_of_fieldsOk hwf
    exact ⟨_, _, exec_enq_command c s, rfl, nofun⟩
  | deq =>
    cases hdeq : s.q.dequeue s.cfg.qCap with
    | none => exact ⟨_, _, exec_deq_empty (dequeue_none.mp hdeq), rfl, nofun⟩
    | some taken =>
      exact ⟨.optCmd (some taken.1), { s with q := taken.2 }, by rw [exec, execDeq, hdeq]; rfl, rfl, nofun⟩
  | ser tag val =>
    obtain ⟨c, rfl, rfl⟩ := command_of_fieldsOk hwf
    exact ⟨_, _, exec_ser_command c s, rfl, nofun⟩
  | tick =>
    obtain ⟨-, -, -, -, -, -, -, -, -, hresp⟩ := tickStages_frame s
    exact ⟨_, _, exec_tick s, hresp, nofun⟩
  | avg | allsame | sum | count | snap | space | len | isfull | isempty | fmt _ => exact ⟨_, _, rfl, rfl, nofun⟩

/-- Only BAD_OPERAND writes the fault flag, so operands in range leave it. -/
theorem exec_fault_of_wellFormed {i : Instr} {s t : State} (hwf : i.wellFormed = true) (hexec : exec i s = .next t) :
    t.fault = s.fault := by
  rcases (OpEffect.of_exec hexec).fault_cases with hkeeps | ⟨hbad, -⟩
  · exact hkeeps
  · cases hwf.symm.trans hbad

/-- Settles O9: a word without a cause decodes to an operation of its port whose operands are in range. -/
theorem legalWordNeverFaults : Obligations.LegalWordNeverFaults := by
  intro s p w rest hinit hinbox hcause
  obtain ⟨i, hdecode⟩ := (firstCause_none_iff p w).mp hcause
  obtain ⟨hword, rfl⟩ := decodeOn_ok.mp hdecode
  obtain ⟨hwf, -⟩ := decodedWordEncodesBack w i hword
  obtain ⟨v, u, hexec, hresp, hanswer⟩ := exec_eq_respond_of_wellFormed hwf { s with inbox := rest }
  have hfault := exec_fault_of_wellFormed hwf hexec
  refine ⟨_, v, (step_legal hinit hinbox hdecode).trans hexec, hfault, ?_, hanswer⟩
  rw [respond_respOut, hresp]

/-! ## Progress, and the halt (R233) -/

theorem step_powerOn {s : State} {ok : Bool} {rest : List Input} (hinit : s.initOk = true)
    (hinbox : s.inbox = .powerOn ok :: rest) : step s = .next (powerOnReset ok { s with inbox := rest }) :=
  step_deliver hinit hinbox

/-- A working block takes whatever stands first in its schedule: nothing, an op word, or power-on. -/
theorem step_of_initOk {s : State} (hinit : s.initOk = true) : ∃ t, step s = .next t := by
  cases hinbox : s.inbox with
  | nil => exact ⟨s, step_idle hinit hinbox⟩
  | cons input rest =>
    cases input with
    | op p w =>
      obtain ⟨t, -, hstep, -⟩ := everyOpWordGetsOneResponse s p w rest hinit hinbox
      exact ⟨t, hstep⟩
    | powerOn ok => exact ⟨_, step_powerOn hinit hinbox⟩

/-- Settles O13: a block whose initialisation failed stops with that fault, and every other block steps. -/
theorem workingBlockAlwaysSteps : Obligations.WorkingBlockAlwaysSteps := by
  refine ⟨fun _ => step_of_initOk, fun s r hrefused => ?_⟩
  cases hinit : s.initOk with
  | false => cases (step_halted hinit).symm.trans hrefused
  | true =>
    obtain ⟨t, hstep⟩ := step_of_initOk hinit
    cases hstep.symm.trans hrefused

/-- Settles O11: the one case of a step in which there is nothing to fetch. -/
theorem idleStepChangesNothing : Obligations.IdleStepChangesNothing := fun _ => step_idle

/-- Settles O12: power-on stores the launch condition it found and keeps the outputs given, and the next step reads
that bit. -/
theorem failedInitialisationHalts : Obligations.FailedInitialisationHalts :=
  ⟨fun _ => step_halted, fun _ _ hinit hinbox =>
    ⟨_, step_powerOn hinit hinbox, step_halted (powerOnReset_initOk false _), rfl, rfl, rfl⟩⟩

end Sys2Proof.Machine
end

section
/-! SUPPORT. Power-on reset (70_reset_and_hazards.md R260, R263): what it leaves in the state, and that this is a state
of the block. -/

namespace Sys2Proof.Machine

/-! ## The values after reset (R260) -/

/-- Settles O14: the values are those `State.resetWith` names, its empty window and empty queue written out, and
power-on keeps of the state before it the configuration and the environment's side of the ports only. -/
theorem powerOnResetsEveryElement : Obligations.PowerOnResetsEveryElement :=
  ⟨fun _ => rfl, fun _ _ _ hinit hinbox => (step_powerOn hinit hinbox).trans rfl⟩

/-! ## The invariant at reset (R35, R38 to R51) -/

theorem resetWith_edgeAgrees (c : Config) : (State.resetWith c).EdgeAgrees := (edgeAgrees_iff _).mpr rfl

/-- The OPEN parameters are bounded by their types, which carry the constraint column of R6. -/
theorem reference_valid : Config.reference.Valid := by
  have hcapacity : Config.reference.n ≤ 65535 := Config.openCapacityLessOne.isLt
  have hmaxTicks : Config.reference.maxTicksBetweenUpdate ≤ 65535 := Config.openMaxTicksLessOne.isLt
  have hminTicks : Config.reference.minTicksBetweenSend ≤ 65535 := Nat.le_of_lt_succ Config.openMinTicks.isLt
  exact ⟨⟨Nat.succ_pos _, hcapacity⟩, by decide, ⟨Nat.succ_pos _, hmaxTicks⟩, hminTicks, by decide,
    Config.openCurrentFloor.isLt, Config.openVoltageSet.isLt⟩

/-- Settles O15: the empty window and the empty queue are in shape, and the reference block is a valid build. -/
theorem resetMeetsInvariant : Obligations.ResetMeetsInvariant :=
  ⟨fun c hc => ⟨resetWith_inv hc, resetWith_edgeAgrees c⟩, resetWith_inv reference_valid,
    resetWith_edgeAgrees Config.reference⟩

end Sys2Proof.Machine
end
